-- ==== Sys2Proof/Word.lean ====
section
/-! DEFINITION. The word types of the block (00_scope.md R6, R7): 32-bit bus and command words, 256-bit registers, bytes. -/

namespace Sys2Proof

/-- A 32-bit word: a bus word, a command word, a word of the digest. -/
abbrev Word := BitVec 32

/-- A `W` = 256 bit register value (00_scope.md R6). -/
abbrev Wide := BitVec 256

/-- A byte of the message buffer and of `HBUF`. -/
abbrev Byte := BitVec 8

end Sys2Proof
end

