-- ==== Sys2Proof/Config.lean ====
section
/-! DEFINITION. What an implementation fixes and the spec leaves open (00_scope.md R6, 92_eei_decisions.md section 5), and the
free values. An `opaque` constant has no body: nothing in Lean can evaluate it, so a theorem holds for every value of it. -/

namespace Sys2Proof

/-- `SIGN_RETRY_LIMIT` less one: any natural number (log entry 7). -/
opaque Config.signRetryExtra : Nat

/-- `SIGN_RETRY_LIMIT`, an OPEN positive integer (00_scope.md R6, 92_eei_decisions.md D22). -/
def Config.signRetryLimit : Nat := Config.signRetryExtra + 1

/-- `BASE` divided by 4: any natural number (log entry 8). -/
opaque Config.baseWord : Nat

/-- `BASE`, the OPEN byte address of the register window, a multiple of 4 (00_scope.md R6, 20_memory.md R38). -/
def Config.base : Nat := 4 * Config.baseWord

/-- FREE VALUE (log entry 6): what byte `i` of `MSG` holds after the `e`-th reset until the host writes it
(10_state.md R27, 93_implementation_defined.md U2). -/
opaque Config.freeMsgByte : (e : Nat) → (i : Nat) → Byte

/-- FREE VALUE (log entry 4): the answer of the random port to the `n`-th draw when the environment has queued none
(10_state.md R24, 93_implementation_defined.md U8). -/
opaque Config.freeDraw : (n : Nat) → Wide

/-- `MSG_BYTES` (00_scope.md R6). -/
def Config.msgBytes : Nat := 256

/-- `HASH_MAX_BYTES` = 2^61 - 1 (00_scope.md R6). -/
def Config.hashMaxBytes : Nat := 2 ^ 61 - 1

/-- The Montgomery radix `R` = 2^W = 2^256 (00_scope.md R6). -/
def Config.radix : Nat := 2 ^ 256

/-- Bytes in the register window (20_memory.md R30). -/
def Config.windowBytes : Nat := 0x800

end Sys2Proof
end

