-- ==== Sys2Proof/Syntax.lean ====
section
/-! DEFINITION. The 19 commands (30_encoding.md R54), one constructor per row of spec/opcode_table.json, in the table's order. -/

namespace Sys2Proof

/-- The number of a scalar register: a 4-bit field, all sixteen values legal (30_encoding.md R52). -/
abbrev SReg := BitVec 4

/-- The number of a point register: the low three bits of a field whose bit 3 is 0 (30_encoding.md R52). -/
abbrev PReg := BitVec 3

/-- The modulus select `msel` (30_encoding.md R53): `p` is 0 and selects `CP`, `n` is 1 and selects `CN`. -/
inductive ModSel where
  | p
  | n
  deriving DecidableEq, Repr

/-- A command (30_encoding.md R54). The field names are those of spec/opcode_table.json. -/
inductive Instr where
  | modadd (rd rs1 rs2 : SReg) (msel : ModSel)
  | modsub (rd rs1 rs2 : SReg) (msel : ModSel)
  | modmul (rd rs1 rs2 : SReg) (msel : ModSel)
  | montmul (rd rs1 rs2 : SReg) (msel : ModSel)
  | modexp (rd rs1 rs2 : SReg) (msel : ModSel)
  | modinv (rd rs1 : SReg) (msel : ModSel)
  | sqrt (rd rs1 : SReg) (msel : ModSel)
  | cinit
  | pchk (ps1 : PReg)
  | prec (pd : PReg) (rs1 : SReg)
  | padd (pd ps1 ps2 : PReg)
  | pdbl (pd ps1 : PReg)
  | smul (pd ps1 : PReg) (rs2 : SReg)
  | keygen (rd : SReg) (pd : PReg)
  | hreset
  | happend (len : BitVec 12)
  | hdigest (rd : SReg)
  | sign (rdR rdS rsD : SReg)
  | verify (rsR rsS : SReg) (psQ : PReg)
  deriving DecidableEq, Repr

end Sys2Proof
end

