-- ==== Sys2Proof/WellFormed.lean ====
section
/-! DEFINITION. Which commands are legal: the constraint column of 30_encoding.md R54. The other constraints of R52 (a point field
below 8, an unused field 0) are in the types of the constructors of `Instr`. -/

namespace Sys2Proof

/-- The constraints of 30_encoding.md R54: `len ≤ 256` in HAPPEND, `fa ≠ fb` in SIGN; every other command is legal as it stands. -/
def Instr.wellFormed : Instr → Bool
  | .modadd _ _ _ _ => true
  | .modsub _ _ _ _ => true
  | .modmul _ _ _ _ => true
  | .montmul _ _ _ _ => true
  | .modexp _ _ _ _ => true
  | .modinv _ _ _ => true
  | .sqrt _ _ _ => true
  | .cinit => true
  | .pchk _ => true
  | .prec _ _ => true
  | .padd _ _ _ => true
  | .pdbl _ _ => true
  | .smul _ _ _ => true
  | .keygen _ _ => true
  | .hreset => true
  | .happend len => decide (len.toNat ≤ Config.msgBytes)
  | .hdigest _ => true
  | .sign rdR rdS _ => decide (rdR ≠ rdS)
  | .verify _ _ _ => true

end Sys2Proof
end

