-- ==== Sys2Proof/Decode.lean ====
section
/-! DEFINITION. The decoder, total on every 32-bit word and rejecting by name (30_encoding.md R51 to R55), and the encoder
(30_encoding.md R58), both written from the table of R54. -/

namespace Sys2Proof

/-- Why a word is illegal (30_encoding.md R55). Every reason raises the one fault `F_ILLEGAL_CMD`. -/
inductive IllegalWord where
  /-- The `opcode` value is not in the table. -/
  | opcode
  /-- A field the command does not use, or `imm12[11:1]` beside `msel`, is not 0. -/
  | unusedField
  /-- A point register field has bit 3 set. -/
  | pointRegister
  /-- HAPPEND with `len` above 256. -/
  | length
  /-- SIGN with `fa` = `fb`. -/
  | sameDestination
  deriving DecidableEq, Repr

/-- The decoder's answer: one legal command, or the name of what makes the word illegal. -/
inductive Decoded where
  | command (i : Instr)
  | illegal (why : IllegalWord)
  deriving DecidableEq, Repr

/-! The fields of 30_encoding.md R51. -/

def opcodeOf (w : Word) : BitVec 8 := w.extractLsb' 24 8
def fieldA (w : Word) : BitVec 4 := w.extractLsb' 20 4
def fieldB (w : Word) : BitVec 4 := w.extractLsb' 16 4
def fieldC (w : Word) : BitVec 4 := w.extractLsb' 12 4
def imm12Of (w : Word) : BitVec 12 := w.extractLsb' 0 12

/-- `imm12[11:1]`, which must be 0 where `msel` is used (30_encoding.md R53). -/
def aboveMsel (w : Word) : BitVec 11 := w.extractLsb' 1 11

/-- `msel = imm12[0]`: 0 selects `CP`, 1 selects `CN` (30_encoding.md R53). -/
def mselOf (w : Word) : ModSel := if w.getLsbD 0 then .n else .p

/-- Bit 3 of a field, which must be 0 in a point register field (30_encoding.md R52). -/
def notPoint (f : BitVec 4) : Bool := f.getLsbD 3

/-- The point register a legal field names (30_encoding.md R52). -/
def pointOf (f : BitVec 4) : PReg := f.extractLsb' 0 3

/-- Operands `rd, rs1, rs2, msel` (MODADD, MODSUB, MODMUL, MONTMUL, MODEXP). -/
def decodeField3 (mk : SReg → SReg → SReg → ModSel → Instr) (w : Word) : Decoded :=
  if aboveMsel w = 0 then .command (mk (fieldA w) (fieldB w) (fieldC w) (mselOf w))
  else .illegal .unusedField

/-- Operands `rd, rs1, msel`, with `fc` = 0 (MODINV, SQRT). -/
def decodeField2 (mk : SReg → SReg → ModSel → Instr) (w : Word) : Decoded :=
  if aboveMsel w = 0 ∧ fieldC w = 0 then .command (mk (fieldA w) (fieldB w) (mselOf w))
  else .illegal .unusedField

/-- A word with no operand: every field below the opcode is 0 (CINIT, HRESET). -/
def decodeNone (i : Instr) (w : Word) : Decoded :=
  if fieldA w = 0 ∧ fieldB w = 0 ∧ fieldC w = 0 ∧ imm12Of w = 0 then .command i
  else .illegal .unusedField

def decodePchk (w : Word) : Decoded :=
  if ¬(fieldA w = 0 ∧ fieldC w = 0 ∧ imm12Of w = 0) then .illegal .unusedField
  else if notPoint (fieldB w) then .illegal .pointRegister
  else .command (.pchk (pointOf (fieldB w)))

def decodePrec (w : Word) : Decoded :=
  if ¬(fieldC w = 0 ∧ imm12Of w = 0) then .illegal .unusedField
  else if notPoint (fieldA w) then .illegal .pointRegister
  else .command (.prec (pointOf (fieldA w)) (fieldB w))

def decodePadd (w : Word) : Decoded :=
  if ¬(imm12Of w = 0) then .illegal .unusedField
  else if notPoint (fieldA w) || notPoint (fieldB w) || notPoint (fieldC w) then .illegal .pointRegister
  else .command (.padd (pointOf (fieldA w)) (pointOf (fieldB w)) (pointOf (fieldC w)))

def decodePdbl (w : Word) : Decoded :=
  if ¬(fieldC w = 0 ∧ imm12Of w = 0) then .illegal .unusedField
  else if notPoint (fieldA w) || notPoint (fieldB w) then .illegal .pointRegister
  else .command (.pdbl (pointOf (fieldA w)) (pointOf (fieldB w)))

def decodeSmul (w : Word) : Decoded :=
  if ¬(imm12Of w = 0) then .illegal .unusedField
  else if notPoint (fieldA w) || notPoint (fieldB w) then .illegal .pointRegister
  else .command (.smul (pointOf (fieldA w)) (pointOf (fieldB w)) (fieldC w))

def decodeKeygen (w : Word) : Decoded :=
  if ¬(fieldC w = 0 ∧ imm12Of w = 0) then .illegal .unusedField
  else if notPoint (fieldB w) then .illegal .pointRegister
  else .command (.keygen (fieldA w) (pointOf (fieldB w)))

def decodeHappend (w : Word) : Decoded :=
  if ¬(fieldA w = 0 ∧ fieldB w = 0 ∧ fieldC w = 0) then .illegal .unusedField
  else if Config.msgBytes < (imm12Of w).toNat then .illegal .length
  else .command (.happend (imm12Of w))

def decodeHdigest (w : Word) : Decoded :=
  if ¬(fieldB w = 0 ∧ fieldC w = 0 ∧ imm12Of w = 0) then .illegal .unusedField
  else .command (.hdigest (fieldA w))

def decodeSign (w : Word) : Decoded :=
  if ¬(imm12Of w = 0) then .illegal .unusedField
  else if fieldA w = fieldB w then .illegal .sameDestination
  else .command (.sign (fieldA w) (fieldB w) (fieldC w))

def decodeVerify (w : Word) : Decoded :=
  if ¬(imm12Of w = 0) then .illegal .unusedField
  else if notPoint (fieldC w) then .illegal .pointRegister
  else .command (.verify (fieldA w) (fieldB w) (pointOf (fieldC w)))

/-- The decoder (30_encoding.md R54, R55): every word is exactly one legal command or illegal. -/
def decode (w : Word) : Decoded :=
  match (opcodeOf w).toNat with
  | 0x01 => decodeField3 .modadd w
  | 0x02 => decodeField3 .modsub w
  | 0x03 => decodeField3 .modmul w
  | 0x04 => decodeField3 .montmul w
  | 0x05 => decodeField3 .modexp w
  | 0x06 => decodeField2 .modinv w
  | 0x07 => decodeField2 .sqrt w
  | 0x10 => decodeNone .cinit w
  | 0x11 => decodePchk w
  | 0x12 => decodePrec w
  | 0x13 => decodePadd w
  | 0x14 => decodePdbl w
  | 0x15 => decodeSmul w
  | 0x16 => decodeKeygen w
  | 0x20 => decodeNone .hreset w
  | 0x21 => decodeHappend w
  | 0x22 => decodeHdigest w
  | 0x30 => decodeSign w
  | 0x31 => decodeVerify w
  | _ => .illegal .opcode

/-- The command in an answer of the decoder, if there is one. -/
def Decoded.toOption : Decoded → Option Instr
  | .command i => some i
  | .illegal _ => none

/-- The decoder on bits numbered as spec/opcode_table.json numbers them: a command is one 32-bit word, bit 0 its least
significant bit (30_encoding.md R51); the bits at and above `nbits` are 0, and no word has more than 32 bits. -/
def decodeTableWord (nbits w : Nat) : Option Instr :=
  if w % 2 ^ nbits < 2 ^ 32 then (decode (BitVec.ofNat 32 (w % 2 ^ nbits))).toOption else none

/-! The encoder. -/

/-- `opcode·2^24 + fa·2^20 + fb·2^16 + fc·2^12 + imm12` (30_encoding.md R58). -/
def mkWord (opcode : BitVec 8) (fa fb fc : BitVec 4) (imm12 : BitVec 12) : Word :=
  opcode ++ fa ++ fb ++ fc ++ imm12

/-- `imm12` of a command that uses `msel` (30_encoding.md R53). -/
def mselBits : ModSel → BitVec 12
  | .p => 0
  | .n => 1

/-- The field that names a point register: bit 3 is 0 (30_encoding.md R52). -/
def pointBits (p : PReg) : BitVec 4 := p.zeroExtend 4

/-- The word of a command (30_encoding.md R54, R58). -/
def encode : Instr → Word
  | .modadd rd rs1 rs2 m => mkWord 0x01 rd rs1 rs2 (mselBits m)
  | .modsub rd rs1 rs2 m => mkWord 0x02 rd rs1 rs2 (mselBits m)
  | .modmul rd rs1 rs2 m => mkWord 0x03 rd rs1 rs2 (mselBits m)
  | .montmul rd rs1 rs2 m => mkWord 0x04 rd rs1 rs2 (mselBits m)
  | .modexp rd rs1 rs2 m => mkWord 0x05 rd rs1 rs2 (mselBits m)
  | .modinv rd rs1 m => mkWord 0x06 rd rs1 0 (mselBits m)
  | .sqrt rd rs1 m => mkWord 0x07 rd rs1 0 (mselBits m)
  | .cinit => mkWord 0x10 0 0 0 0
  | .pchk ps1 => mkWord 0x11 0 (pointBits ps1) 0 0
  | .prec pd rs1 => mkWord 0x12 (pointBits pd) rs1 0 0
  | .padd pd ps1 ps2 => mkWord 0x13 (pointBits pd) (pointBits ps1) (pointBits ps2) 0
  | .pdbl pd ps1 => mkWord 0x14 (pointBits pd) (pointBits ps1) 0 0
  | .smul pd ps1 rs2 => mkWord 0x15 (pointBits pd) (pointBits ps1) rs2 0
  | .keygen rd pd => mkWord 0x16 rd (pointBits pd) 0 0
  | .hreset => mkWord 0x20 0 0 0 0
  | .happend len => mkWord 0x21 0 0 0 len
  | .hdigest rd => mkWord 0x22 rd 0 0 0
  | .sign rdR rdS rsD => mkWord 0x30 rdR rdS rsD 0
  | .verify rsR rsS psQ => mkWord 0x31 rsR rsS (pointBits psQ) 0

/-! The table itself. -/

/-- A row of 30_encoding.md R54: a word is selected by the row when `(w AND mask) = pattern` and the constraint holds. -/
structure TableRow where
  mnemonic : String
  mask : Word
  pattern : Word
  deriving DecidableEq, Repr

/-- The row of a command (30_encoding.md R54, columns "mask / match"). -/
def rowOf : Instr → TableRow
  | .modadd _ _ _ _ => { mnemonic := "MODADD", mask := 0xFF000FFE, pattern := 0x01000000 }
  | .modsub _ _ _ _ => { mnemonic := "MODSUB", mask := 0xFF000FFE, pattern := 0x02000000 }
  | .modmul _ _ _ _ => { mnemonic := "MODMUL", mask := 0xFF000FFE, pattern := 0x03000000 }
  | .montmul _ _ _ _ => { mnemonic := "MONTMUL", mask := 0xFF000FFE, pattern := 0x04000000 }
  | .modexp _ _ _ _ => { mnemonic := "MODEXP", mask := 0xFF000FFE, pattern := 0x05000000 }
  | .modinv _ _ _ => { mnemonic := "MODINV", mask := 0xFF00FFFE, pattern := 0x06000000 }
  | .sqrt _ _ _ => { mnemonic := "SQRT", mask := 0xFF00FFFE, pattern := 0x07000000 }
  | .cinit => { mnemonic := "CINIT", mask := 0xFFFFFFFF, pattern := 0x10000000 }
  | .pchk _ => { mnemonic := "PCHK", mask := 0xFFF8FFFF, pattern := 0x11000000 }
  | .prec _ _ => { mnemonic := "PREC", mask := 0xFF80FFFF, pattern := 0x12000000 }
  | .padd _ _ _ => { mnemonic := "PADD", mask := 0xFF888FFF, pattern := 0x13000000 }
  | .pdbl _ _ => { mnemonic := "PDBL", mask := 0xFF88FFFF, pattern := 0x14000000 }
  | .smul _ _ _ => { mnemonic := "SMUL", mask := 0xFF880FFF, pattern := 0x15000000 }
  | .keygen _ _ => { mnemonic := "KEYGEN", mask := 0xFF08FFFF, pattern := 0x16000000 }
  | .hreset => { mnemonic := "HRESET", mask := 0xFFFFFFFF, pattern := 0x20000000 }
  | .happend _ => { mnemonic := "HAPPEND", mask := 0xFFFFF000, pattern := 0x21000000 }
  | .hdigest _ => { mnemonic := "HDIGEST", mask := 0xFF0FFFFF, pattern := 0x22000000 }
  | .sign _ _ _ => { mnemonic := "SIGN", mask := 0xFF000FFF, pattern := 0x30000000 }
  | .verify _ _ _ => { mnemonic := "VERIFY", mask := 0xFF008FFF, pattern := 0x31000000 }

/-- The 19 rows of 30_encoding.md R54. -/
def opcodeTable : List TableRow :=
  [{ mnemonic := "MODADD", mask := 0xFF000FFE, pattern := 0x01000000 },
   { mnemonic := "MODSUB", mask := 0xFF000FFE, pattern := 0x02000000 },
   { mnemonic := "MODMUL", mask := 0xFF000FFE, pattern := 0x03000000 },
   { mnemonic := "MONTMUL", mask := 0xFF000FFE, pattern := 0x04000000 },
   { mnemonic := "MODEXP", mask := 0xFF000FFE, pattern := 0x05000000 },
   { mnemonic := "MODINV", mask := 0xFF00FFFE, pattern := 0x06000000 },
   { mnemonic := "SQRT", mask := 0xFF00FFFE, pattern := 0x07000000 }] ++
  [{ mnemonic := "CINIT", mask := 0xFFFFFFFF, pattern := 0x10000000 },
   { mnemonic := "PCHK", mask := 0xFFF8FFFF, pattern := 0x11000000 },
   { mnemonic := "PREC", mask := 0xFF80FFFF, pattern := 0x12000000 },
   { mnemonic := "PADD", mask := 0xFF888FFF, pattern := 0x13000000 },
   { mnemonic := "PDBL", mask := 0xFF88FFFF, pattern := 0x14000000 },
   { mnemonic := "SMUL", mask := 0xFF880FFF, pattern := 0x15000000 },
   { mnemonic := "KEYGEN", mask := 0xFF08FFFF, pattern := 0x16000000 }] ++
  [{ mnemonic := "HRESET", mask := 0xFFFFFFFF, pattern := 0x20000000 },
   { mnemonic := "HAPPEND", mask := 0xFFFFF000, pattern := 0x21000000 },
   { mnemonic := "HDIGEST", mask := 0xFF0FFFFF, pattern := 0x22000000 }] ++
  [{ mnemonic := "SIGN", mask := 0xFF000FFF, pattern := 0x30000000 },
   { mnemonic := "VERIFY", mask := 0xFF008FFF, pattern := 0x31000000 }]

/-- The constraint column of 30_encoding.md R54, on the word: `len ≤ 256` for HAPPEND, `fa ≠ fb` for SIGN. -/
def rowConstraint (r : TableRow) (w : Word) : Bool :=
  if r.pattern = 0x21000000 then decide ((imm12Of w).toNat ≤ Config.msgBytes)
  else if r.pattern = 0x30000000 then decide (fieldA w ≠ fieldB w)
  else true

/-- A row selects a word (30_encoding.md R54). -/
def rowSelects (r : TableRow) (w : Word) : Bool := decide (w &&& r.mask = r.pattern) && rowConstraint r w

end Sys2Proof
end

