-- ==== Sys2Proof/Machine/State.lean ====
section
/-! DEFINITION. The state of the block as plain data (10_state.md), the model's own fields beside it (what the host and the random
source are about to do, and what the bus answered), the reset state, and the two reason types of a step that stops. -/

namespace Sys2Proof.Machine

/-- A point register (10_state.md R12): coordinates `x` and `y` of 256 bits and the 1-bit field `inf`. -/
structure PointReg where
  x : Wide
  y : Wide
  inf : Bool
  deriving DecidableEq, Repr

/-- The curve parameter registers (10_state.md R14). -/
structure Params where
  ca : Word
  cb : Word
  cp : Wide
  cn : Wide
  gx : Wide
  gy : Wide
  ginf : Bool
  deriving DecidableEq, Repr

/-- The DigestState (10_state.md R21): the running hash words `H[0..7]`, the pending bytes `HBUF` in the order they were
appended, and the byte count `HLEN`. -/
structure DigestState where
  h : Vector Word 8
  hbuf : List Byte
  hlen : BitVec 64
  deriving DecidableEq, Repr

/-- The widths of a bus transaction that are not 32 bits (20_memory.md R31). -/
inductive OddWidth where
  | w8
  | w16
  | w64
  deriving DecidableEq, Repr

/-- Something the outside does to the block. Offsets are byte offsets from `BASE` (00_scope.md R8). -/
inductive HostEvent where
  /-- `BusRead(off)`, 32 bits wide. -/
  | read (off : Nat)
  /-- `BusWrite(off, v)`, 32 bits wide. -/
  | write (off : Nat) (v : Word)
  /-- A read of another width. -/
  | oddRead (width : OddWidth) (off : Nat)
  /-- A write of another width; its data can have no effect. -/
  | oddWrite (width : OddWidth) (off : Nat)
  /-- The reset input is asserted and released (70_reset_and_hazards.md R180). It is no bus transaction: a command that holds the bus
  does not hold it back. -/
  | hardReset
  deriving DecidableEq, Repr

/-- The block's answer to a bus transaction (20_memory.md R31). -/
inductive BusReply where
  /-- The data of a read. -/
  | data (v : Word)
  /-- A write has completed. -/
  | done
  /-- The transaction was refused with a bus error. -/
  | busError
  deriving DecidableEq, Repr

/-- What the random port does when asked (10_state.md R24): it answers one 256-bit value, or it never answers
(70_reset_and_hazards.md R186). -/
inductive PortAnswer where
  | value (k : Wide)
  | silent
  deriving DecidableEq, Repr

/-- The random port (10_state.md R24), seen from the block: the answers the environment has queued, next first, and how many
draws have been made. Both are the model's own; the port holds no state of the block (log entry 4). -/
structure RandomPort where
  answers : List PortAnswer
  drawn : Nat
  deriving DecidableEq, Repr

/-- The state. The fields down to `waiting` are the spec's; the others are the model's own inputs and outputs (10_state.md R26). -/
structure State where
  /-- `S0` to `S15` (10_state.md R11). -/
  scalars : Vector Wide 16
  /-- `P0` to `P7` (10_state.md R12). -/
  points : Vector PointReg 8
  /-- `CA`, `CB`, `CP`, `CN`, `GX`, `GY`, `GINF` (10_state.md R14). -/
  params : Params
  /-- `STATUS.T` (10_state.md R19). -/
  t : Bool
  /-- `STATUS.FAULT` (10_state.md R16). -/
  fault : Bool
  /-- `STATUS.CURVE_OK` (10_state.md R15). -/
  curveOk : Bool
  /-- `FCAUSE[7:0]` (10_state.md R17). -/
  fcause : Byte
  /-- `FINFO` (10_state.md R17). -/
  finfo : Word
  /-- `CMD` (10_state.md R18). -/
  cmd : Word
  /-- The DigestState (10_state.md R21). -/
  digest : DigestState
  /-- `MSG` (10_state.md R22): the bytes written since the last reset, by index, in the canonical form `Memory.wf`. -/
  msg : List Host.Cell
  /-- A KEYGEN or SIGN is in execution and waits for a random source that does not answer, its write to `CMD` still outstanding
  (70_reset_and_hazards.md R180, R186, log entry 5). -/
  waiting : Bool
  /-- The host events still to come, next first (log entry 1). -/
  pending : List HostEvent
  /-- The answers of the bus so far, newest first (log entry 2). -/
  replies : List BusReply
  /-- The random port (log entry 4). -/
  port : RandomPort
  /-- How many resets have been taken; it picks the free bytes of `MSG` (log entry 6). -/
  epoch : Nat
  deriving DecidableEq, Repr

/-- Why a step stops. Every fault the spec gives the block (60_exceptions.md R151) is a NEXT state, so only one reason is here. -/
inductive Fault where
  /-- Raised by `step` when a KEYGEN or SIGN waits for a random source that never answers and no reset is to come: the command never
  ends (70_reset_and_hazards.md R186, 93_implementation_defined.md U8). Safe: the block hangs there. -/
  | portSilent
  deriving DecidableEq, Repr

/-- Why the model gives a command no meaning. -/
inductive Refusal where
  /-- Raised by an arm of `exec` that has no meaning yet. Safe: the model stops where the block goes on. No arm answers it. -/
  | notModelled (mnemonic : String)
  deriving DecidableEq, Repr

/-- The initialisation vector `IV[0..7]` (43_sha256.md R121). -/
def iv : Vector Word 8 :=
  #v[0x6a09e667, 0xbb67ae85, 0x3c6ef372, 0xa54ff53a, 0x510e527f, 0x9b05688c, 0x1f83d9ab, 0x5be0cd19]

/-- The DigestState after a reset and after HRESET (10_state.md R27, 43_sha256.md R124). -/
def DigestState.initial : DigestState := { h := iv, hbuf := [], hlen := 0 }

/-- The state after reset: the table of 10_state.md R27. `MSG` has no byte listed: each is unspecified (log entry 6). -/
def State.reset : State where
  scalars := Vector.replicate 16 0
  points := Vector.replicate 8 { x := 0, y := 0, inf := true }
  params := { ca := 0, cb := 0, cp := 0, cn := 0, gx := 0, gy := 0, ginf := false }
  t := false
  fault := false
  curveOk := false
  fcause := 0
  finfo := 0
  cmd := 0
  digest := .initial
  msg := []
  waiting := false
  pending := []
  replies := []
  port := { answers := [], drawn := 0 }
  epoch := 0

end Sys2Proof.Machine
end

