-- ==== Sys2Proof/Machine/Ops.lean ====
section
/-! DEFINITION. The named operations over registers and memory, taking a fault and being reset (the only way back from one), and
the draw from the random port. -/

namespace Sys2Proof.Machine

/-- What a step, a command or a bus transaction answers. -/
abbrev Result := Host.Outcome State Fault Refusal

/-! ## Faults of the block -/

/-- The fault causes (60_exceptions.md R151). -/
inductive FaultCause where
  | illegalCmd
  | noCurve
  | modulus
  | range
  | notOnCurve
  | curveInit
  | notInvertible
  | sqrtInternal
  | padBlock
  | hashLen
  | rngRange
  | signRetry
  deriving DecidableEq, Repr

/-- The code of a cause in `FCAUSE[7:0]` (60_exceptions.md R151). -/
def faultCode : FaultCause → Byte
  | .illegalCmd => 0x01
  | .noCurve => 0x02
  | .modulus => 0x03
  | .range => 0x04
  | .notOnCurve => 0x05
  | .curveInit => 0x06
  | .notInvertible => 0x07
  | .sqrtInternal => 0x08
  | .padBlock => 0x09
  | .hashLen => 0x0A
  | .rngRange => 0x0B
  | .signRetry => 0x0C

/-- Fault entry (60_exceptions.md R152): `STATUS.FAULT`, `FCAUSE` and `FINFO` are written and nothing else; `FINFO` takes the
command word, which `CMD` already holds (30_encoding.md R50, log entry 9). -/
def takeFault (c : FaultCause) (s : State) : State :=
  { s with fault := true, fcause := faultCode c, finfo := s.cmd }

/-- `raise Fault(F_X)` (00_scope.md R8): the command ends in the FAULT state. -/
def raiseFault (c : FaultCause) (s : State) : Result := .next (takeFault c s)

/-- A reset, hard or soft (70_reset_and_hazards.md R180, R181, R182), the only way out of the FAULT state (60_exceptions.md R154):
every register takes its reset value, `MSG` becomes unspecified anew, and what is outside the block (the host's list, the
replies it got, the random source) is left alone. -/
def resetBlock (s : State) : State :=
  { State.reset with pending := s.pending, replies := s.replies, port := s.port, epoch := s.epoch + 1 }

/-! ## A command held by the random source -/

/-- A draw that is never answered holds the command, none of whose effects has taken place, and the bus transaction that issued it
(70_reset_and_hazards.md R186, log entry 5). The draws already made stay spent. -/
def awaitSource (after : RandomPort) (s : State) : State := { s with port := after, waiting := true }

/-! ## Registers -/

/-- `S[i]` (00_scope.md R8). -/
def readScalar (s : State) (i : SReg) : Wide := s.scalars[i.toNat]'i.isLt

/-- `S[i] <- v` (00_scope.md R8). -/
def writeScalar (s : State) (i : SReg) (v : Wide) : State :=
  { s with scalars := s.scalars.set i.toNat v i.isLt }

/-- The image of `P[i]`, all three fields (00_scope.md R8). -/
def readPointReg (s : State) (i : PReg) : PointReg := s.points[i.toNat]'i.isLt

/-- Write all three fields of `P[i]` (00_scope.md R8). -/
def writePointReg (s : State) (i : PReg) (r : PointReg) : State :=
  { s with points := s.points.set i.toNat r i.isLt }

/-! ## The message buffer

The cells are kept by rising index, one per byte that has been written since the last reset; an index with no cell has no value
of its own. -/

/-- The byte listed at index `k`; an unlisted byte has no value. -/
def Memory.find : List Host.Cell → Nat → Option Byte
  | [], _ => none
  | (a, b) :: rest, k => if a = k then some b else Memory.find rest k

/-- The list with byte `k` set to `v`, its order kept. -/
def Memory.put : List Host.Cell → Nat → Byte → List Host.Cell
  | [], k, v => [(k, v)]
  | (a, b) :: rest, k, v =>
    if k < a then (k, v) :: (a, b) :: rest
    else if k = a then (k, v) :: rest
    else (a, b) :: Memory.put rest k v

/-- The indexes rise strictly, none is below `lo` and none is outside the buffer. -/
def Memory.risesFrom : Nat → List Host.Cell → Bool
  | _, [] => true
  | lo, (a, _) :: rest => decide (lo ≤ a) && decide (a < Config.msgBytes) && Memory.risesFrom (a + 1) rest

/-- The canonical form of the message buffer: indexes 0 to 255, strictly rising. No entry can equal what an unlisted byte reads
as, since an unlisted byte has no value of its own. -/
def Memory.wf (m : List Host.Cell) : Bool := Memory.risesFrom 0 m

/-- `MSG[i]`; a byte nothing has written since the last reset reads as a free value (10_state.md R27, log entry 6). -/
def readMsg (s : State) (i : Nat) : Byte :=
  match Memory.find s.msg i with
  | some b => b
  | none => Config.freeMsgByte s.epoch i

/-- `MSG[i] <- b`; only the host bus writes the buffer (00_scope.md R8). -/
def writeMsg (s : State) (i : Nat) (b : Byte) : State := { s with msg := Memory.put s.msg i b }

/-- `MemRead(MSG, addr, n)`: `n` bytes in ascending index order (00_scope.md R8, 20_memory.md R45). -/
def memRead (s : State) (addr n : Nat) : List Byte := (List.range n).map fun k => readMsg s (addr + k)

/-! ## The random port -/

/-- What a draw gives: a value, or no answer ever; and the port after it. -/
inductive Draw where
  | answered (k : Nat) (after : RandomPort)
  | silent (after : RandomPort)
  deriving DecidableEq, Repr

/-- `draw(n)` (10_state.md R24): the next answer of the source. The bound presented to the source does not bind the answer; the
command checks its range. Where the environment has queued no answer, the answer is a free value (log entry 4). -/
def draw (port : RandomPort) : Draw :=
  match port.answers with
  | [] => .answered (Config.freeDraw port.drawn).toNat { answers := [], drawn := port.drawn + 1 }
  | .value k :: rest => .answered k.toNat { answers := rest, drawn := port.drawn + 1 }
  | .silent :: rest => .silent { answers := rest, drawn := port.drawn }

end Sys2Proof.Machine
end

