-- ==== Sys2Proof/Machine/Flags.lean ====
section
/-! DEFINITION. The one flag `T` and the status words (10_state.md R16, R17, R19). The block has no carry, zero, sign or overflow
flag. -/

namespace Sys2Proof.Machine

/-- `STATUS.T <- b` (10_state.md R19). -/
def setT (s : State) (b : Bool) : State := { s with t := b }

/-- `STATUS.CURVE_OK <- 1` (42_curve.md R107). -/
def setCurveOk (s : State) : State := { s with curveOk := true }

/-- A bit of a status word. -/
def bitAt (b : Bool) (k : Nat) : Word := (BitVec.ofBool b).zeroExtend 32 <<< k

/-- `STATUS` as the bus reads it: bit 0 `T`, bit 1 `FAULT`, bit 2 `CURVE_OK`, the rest 0 (10_state.md R16). -/
def statusWord (s : State) : Word := bitAt s.t 0 ||| bitAt s.fault 1 ||| bitAt s.curveOk 2

/-- `FCAUSE` as the bus reads it: the code in bits 7:0, the rest 0 (10_state.md R17). -/
def fcauseWord (s : State) : Word := s.fcause.zeroExtend 32

end Sys2Proof.Machine
end

