-- ==== Sys2Proof/Machine/Operands.lean ====
section
/-! DEFINITION. The operand forms of the commands (30_encoding.md R52, R53): scalar and point registers as integers and points, the
selected modulus, the curve parameters; and the 32-bit words of wide registers and of the message buffer (20_memory.md R34 to R37). -/

namespace Sys2Proof.Machine

/-! ## Integers and points -/

/-- A point as the pseudocode handles it: a record of unbounded integers (00_scope.md R7, R8). -/
structure Point where
  x : Nat
  y : Nat
  inf : Bool
  deriving DecidableEq, Repr

/-- `INF`, the point `(0, 0, 1)` (42_curve.md, preamble). -/
def Point.infinity : Point := { x := 0, y := 0, inf := true }

/-- The constructed curve: the values of `CA`, `CB`, `CP`, `CN` and `(GX, GY, GINF)` (10_state.md R14). -/
structure Curve where
  a : Nat
  b : Nat
  p : Nat
  n : Nat
  g : Point
  deriving DecidableEq, Repr

/-- The unsigned integer in `S[i]` (10_state.md R11). -/
def scalar (s : State) (i : SReg) : Nat := (readScalar s i).toNat

/-- `S[i] <- v` for an integer `v`; every rule that does so has `v` below 2^256 (00_scope.md R7). -/
def setScalar (s : State) (i : SReg) (v : Nat) : State := writeScalar s i (BitVec.ofNat 256 v)

/-- A register image read as a point (10_state.md R13). -/
def pointOfReg (r : PointReg) : Point := { x := r.x.toNat, y := r.y.toNat, inf := r.inf }

/-- The image a command writes for a point: infinity is `(0, 0, 1)` whatever `x` and `y` the value carried (42_curve.md R103). -/
def regOfPoint (v : Point) : PointReg :=
  if v.inf then { x := 0, y := 0, inf := true }
  else { x := BitVec.ofNat 256 v.x, y := BitVec.ofNat 256 v.y, inf := false }

/-- `P[i]` as a point (00_scope.md R8). -/
def point (s : State) (i : PReg) : Point := pointOfReg (readPointReg s i)

/-- `P[i] <- V` (42_curve.md R103). -/
def setPoint (s : State) (i : PReg) (v : Point) : State := writePointReg s i (regOfPoint v)

/-- `modsel(msel)`: `CP` or `CN` as it stands (40_field_arithmetic.md R70). -/
def selectedModulus (s : State) : ModSel → Nat
  | .p => s.params.cp.toNat
  | .n => s.params.cn.toNat

/-- The curve in the parameter registers (10_state.md R14). -/
def curveOf (r : Params) : Curve :=
  { a := r.ca.toNat, b := r.cb.toNat, p := r.cp.toNat, n := r.cn.toNat,
    g := { x := r.gx.toNat, y := r.gy.toNat, inf := r.ginf } }

/-! ## Words and bytes -/

/-- The bit at which word `j` of a 256-bit register starts: word 0 is the most significant (20_memory.md R34). -/
def laneShift (j : BitVec 3) : Nat := 224 - 32 * j.toNat

/-- Word `j` of a 256-bit register (20_memory.md R34). -/
def laneOf (v : Wide) (j : BitVec 3) : Word := v.extractLsb' (laneShift j) 32

/-- `v` with word `j` replaced and the other 224 bits unchanged (20_memory.md R34). -/
def withLane (v : Wide) (j : BitVec 3) (w : Word) : Wide :=
  (v &&& ~~~((0xFFFFFFFF : Wide) <<< laneShift j)) ||| (w.zeroExtend 256 <<< laneShift j)

/-- Byte `r` (0 to 3) of a word, byte 0 the most significant (20_memory.md R36). -/
def byteOfWord (w : Word) (r : Nat) : Byte := w.extractLsb' (24 - 8 * r) 8

/-- Four bytes as a big-endian word (20_memory.md R36, R37, 43_sha256.md R123). -/
def wordOfBytes (b0 b1 b2 b3 : Byte) : Word := b0 ++ b1 ++ b2 ++ b3

end Sys2Proof.Machine
end

