-- ==== Sys2Proof/Machine/Bus.lean ====
section
/-! DEFINITION. The register window (20_memory.md): the map of R33, reads, and the writes that only store a value. -/

namespace Sys2Proof.Machine

/-- A 32-bit word of the register window (20_memory.md R33, R34, R35, R36). `j` is the word of a wide register, 0 the most
significant. -/
inductive BusReg where
  | cmd
  | status
  | fcause
  | finfo
  | ctrl
  | ca
  | cb
  | ginf
  | cp (j : BitVec 3)
  | cn (j : BitVec 3)
  | gx (j : BitVec 3)
  | gy (j : BitVec 3)
  | h (j : BitVec 3)
  | hlenHi
  | hlenLo
  | msg (k : BitVec 6)
  | scalar (i : SReg) (j : BitVec 3)
  | pointX (i : PReg) (j : BitVec 3)
  | pointY (i : PReg) (j : BitVec 3)
  | pointInf (i : PReg)
  deriving DecidableEq, Repr

/-- Offsets 0x000 to 0x01C (20_memory.md R33). -/
def controlReg : (word : Nat) → Option BusReg
  | 0 => some .cmd
  | 1 => some .status
  | 2 => some .fcause
  | 3 => some .finfo
  | 4 => some .ctrl
  | _ => none

/-- Offsets 0x020 to 0x03C (20_memory.md R33). -/
def coefficientReg : (word : Nat) → Option BusReg
  | 0 => some .ca
  | 1 => some .cb
  | 2 => some .ginf
  | _ => none

/-- Offsets 0x0E0 to 0x0FC (20_memory.md R33). -/
def lengthReg : (word : Nat) → Option BusReg
  | 0 => some .hlenHi
  | 1 => some .hlenLo
  | _ => none

/-- The 0x80 bytes of a point register, as four rows of eight words (20_memory.md R35). -/
def pointReg (i : PReg) (row word : Nat) : Option BusReg :=
  match row with
  | 0 => some (.pointX i (BitVec.ofNat 3 word))
  | 1 => some (.pointY i (BitVec.ofNat 3 word))
  | 2 => if word = 0 then some (.pointInf i) else none
  | _ => none

/-- The map by rows of eight words, 0x20 bytes each: `row` 0 to 63, `word` 0 to 7 (20_memory.md R33). -/
def windowReg (row word : Nat) : Option BusReg :=
  match row with
  | 0 => controlReg word
  | 1 => coefficientReg word
  | 2 => some (.cp (BitVec.ofNat 3 word))
  | 3 => some (.cn (BitVec.ofNat 3 word))
  | 4 => some (.gx (BitVec.ofNat 3 word))
  | 5 => some (.gy (BitVec.ofNat 3 word))
  | 6 => some (.h (BitVec.ofNat 3 word))
  | 7 => lengthReg word
  | _ =>
    if row < 16 then some (.msg (BitVec.ofNat 6 (8 * (row - 8) + word)))
    else if row < 32 then some (.scalar (BitVec.ofNat 4 (row - 16)) (BitVec.ofNat 3 word))
    else pointReg (BitVec.ofNat 3 ((row - 32) / 4)) ((row - 32) % 4) word

/-- The register at a byte offset; none where the offset is not a multiple of 4, is 0x800 or more, or is reserved
(20_memory.md R31, R33). -/
def busRegister (off : Nat) : Option BusReg :=
  if off % 4 = 0 ∧ off < Config.windowBytes then windowReg (off / 32) (off / 4 % 8) else none

/-- Message buffer word `k`: `MSG[4k]` in bits 31:24 (20_memory.md R36). -/
def readMsgWord (s : State) (k : BitVec 6) : Word :=
  wordOfBytes (readMsg s (4 * k.toNat)) (readMsg s (4 * k.toNat + 1)) (readMsg s (4 * k.toNat + 2)) (readMsg s (4 * k.toNat + 3))

/-- A write of message buffer word `k` replaces all four bytes (20_memory.md R36). -/
def writeMsgWord (s : State) (k : BitVec 6) (w : Word) : State :=
  writeMsg (writeMsg (writeMsg (writeMsg s (4 * k.toNat) (byteOfWord w 0)) (4 * k.toNat + 1) (byteOfWord w 1))
    (4 * k.toNat + 2) (byteOfWord w 2)) (4 * k.toNat + 3) (byteOfWord w 3)

/-- What a read returns (20_memory.md R33); it has no side effect (R32). -/
def readRegister (s : State) : BusReg → Word
  | .cmd => s.cmd
  | .status => statusWord s
  | .fcause => fcauseWord s
  | .finfo => s.finfo
  | .ctrl => 0
  | .ca => s.params.ca
  | .cb => s.params.cb
  | .ginf => bitAt s.params.ginf 0
  | .cp j => laneOf s.params.cp j
  | .cn j => laneOf s.params.cn j
  | .gx j => laneOf s.params.gx j
  | .gy j => laneOf s.params.gy j
  | .h j => s.digest.h[j.toNat]'j.isLt
  | .hlenHi => s.digest.hlen.extractLsb' 32 32
  | .hlenLo => s.digest.hlen.extractLsb' 0 32
  | .msg k => readMsgWord s k
  | .scalar i j => laneOf (readScalar s i) j
  | .pointX i j => laneOf (readPointReg s i).x j
  | .pointY i j => laneOf (readPointReg s i).y j
  | .pointInf i => bitAt (readPointReg s i).inf 0

/-- A write of a parameter register, refused while `CURVE_OK` = 1 (10_state.md R15, 20_memory.md R33). -/
def writeParams (s : State) (r : Params) : Option State :=
  if s.curveOk then none else some { s with params := r }

/-- The writes that only store a value; none where the write is refused (20_memory.md R31, R33). `CMD` and `CTRL`, whose writes do
more (R32), are handled by the sequencer. -/
def storeRegister (s : State) (r : BusReg) (v : Word) : Option State :=
  match r with
  | .cmd => none
  | .status => none
  | .fcause => none
  | .finfo => none
  | .ctrl => none
  | .ca => writeParams s { s.params with ca := v }
  | .cb => writeParams s { s.params with cb := v }
  | .ginf => writeParams s { s.params with ginf := v.getLsbD 0 }
  | .cp j => writeParams s { s.params with cp := withLane s.params.cp j v }
  | .cn j => writeParams s { s.params with cn := withLane s.params.cn j v }
  | .gx j => writeParams s { s.params with gx := withLane s.params.gx j v }
  | .gy j => writeParams s { s.params with gy := withLane s.params.gy j v }
  | .h _ => none
  | .hlenHi => none
  | .hlenLo => none
  | .msg k => some (writeMsgWord s k v)
  | .scalar i j => some (writeScalar s i (withLane (readScalar s i) j v))
  | .pointX i j => some (writePointReg s i { readPointReg s i with x := withLane (readPointReg s i).x j v })
  | .pointY i j => some (writePointReg s i { readPointReg s i with y := withLane (readPointReg s i).y j v })
  | .pointInf i => some (writePointReg s i { readPointReg s i with inf := v.getLsbD 0 })

/-- `BusRead(off)` (20_memory.md R30, R31, R44): allowed in the FAULT state too. -/
def busRead (s : State) (off : Nat) : BusReply :=
  match busRegister off with
  | some r => .data (readRegister s r)
  | none => .busError

end Sys2Proof.Machine
end

