-- ==== Sys2Proof/Machine/Field.lean ====
section
/-! DEFINITION. Field arithmetic (40_field_arithmetic.md): the helper functions of R78 and the commands MODADD, MODSUB, MODMUL,
MONTMUL, MODEXP, MODINV. -/

namespace Sys2Proof.Machine

/-- The Euclidean remainder of an integer of either sign (00_scope.md R7). -/
def euclidMod (x : Int) (m : Nat) : Nat := (x % (m : Int)).toNat

/-- Square and multiply, low bit of the exponent first; `fuel` bounds the exponent's bits. -/
def powmodLoop : (fuel acc b e m : Nat) → Nat
  | 0, acc, _, _, _ => acc
  | fuel + 1, acc, b, e, m =>
    if e = 0 then acc
    else powmodLoop fuel (if e % 2 = 1 then acc * b % m else acc) (b * b % m) (e / 2) m

/-- `powmod(b, e, m)` = `(b^e) mod m` (40_field_arithmetic.md R78). How it is computed is not architecture. -/
def powmod (b e m : Nat) : Nat := powmodLoop (e.log2 + 1) (1 % m) (b % m) e m

/-- Extended Euclid on the remainders `r0, r1` with the coefficients `t0, t1` of the operand; `fuel` bounds the divisions. -/
def euclidLoop : (fuel r0 r1 : Nat) → (t0 t1 : Int) → Int
  | 0, _, _, t0, _ => t0
  | fuel + 1, r0, r1, t0, t1 =>
    if r1 = 0 then t0 else euclidLoop fuel r1 (r0 % r1) t1 (t0 - (r0 / r1 : Nat) * t1)

/-- `invmod(v, m)` (40_field_arithmetic.md R78): the one `u` with `1 ≤ u ≤ m - 1` and `(v·u) mod m = 1`, or `F_NOT_INVERTIBLE`
when `gcd(v mod m, m) ≠ 1`. How it is computed is not architecture. -/
def invmod (v : Int) (m : Nat) : Except FaultCause Nat :=
  if Nat.gcd (euclidMod v m) m = 1 then .ok (euclidMod (euclidLoop m m (euclidMod v m) 0 1) m)
  else .error .notInvertible

/-- What every command of this file does (40_field_arithmetic.md R70, R71): select the modulus, fault with `F_MODULUS` where it will
not do, compute, and write the result or fault. -/
def fieldCommand (s : State) (rd : SReg) (msel : ModSel) (bad : Nat → Bool) (f : Nat → Except FaultCause Nat) : Result :=
  if bad (selectedModulus s msel) then raiseFault .modulus s
  else
    match f (selectedModulus s msel) with
    | .ok v => .next (setScalar s rd v)
    | .error c => raiseFault c s

/-- `m < 2` (40_field_arithmetic.md R70). -/
def belowTwo (m : Nat) : Bool := decide (m < 2)

/-- `m < 2 or m is even` (40_field_arithmetic.md R75). -/
def belowTwoOrEven (m : Nat) : Bool := decide (m < 2) || decide (m % 2 = 0)

/-- The Montgomery product `a·b·R^-1 mod m` (40_field_arithmetic.md R75). -/
def montgomeryProduct (a b m : Nat) : Except FaultCause Nat :=
  match invmod (Config.radix : Nat) m with
  | .ok rinv => .ok (a * b * rinv % m)
  | .error c => .error c

/-- MODADD (40_field_arithmetic.md R72). -/
def execModadd (rd rs1 rs2 : SReg) (msel : ModSel) (s : State) : Result :=
  fieldCommand s rd msel belowTwo fun m => .ok ((scalar s rs1 + scalar s rs2) % m)

/-- MODSUB (40_field_arithmetic.md R73): an integer difference, which may be negative, and the Euclidean remainder. -/
def execModsub (rd rs1 rs2 : SReg) (msel : ModSel) (s : State) : Result :=
  fieldCommand s rd msel belowTwo fun m => .ok (euclidMod ((scalar s rs1 : Int) - (scalar s rs2 : Int)) m)

/-- MODMUL (40_field_arithmetic.md R74). -/
def execModmul (rd rs1 rs2 : SReg) (msel : ModSel) (s : State) : Result :=
  fieldCommand s rd msel belowTwo fun m => .ok (scalar s rs1 * scalar s rs2 % m)

/-- MONTMUL (40_field_arithmetic.md R75). -/
def execMontmul (rd rs1 rs2 : SReg) (msel : ModSel) (s : State) : Result :=
  fieldCommand s rd msel belowTwoOrEven fun m => montgomeryProduct (scalar s rs1) (scalar s rs2) m

/-- MODEXP (40_field_arithmetic.md R76): the exponent is the whole register, reduced modulo nothing. -/
def execModexp (rd rs1 rs2 : SReg) (msel : ModSel) (s : State) : Result :=
  fieldCommand s rd msel belowTwo fun m => .ok (powmod (scalar s rs1) (scalar s rs2) m)

/-- MODINV (40_field_arithmetic.md R77). -/
def execModinv (rd rs1 : SReg) (msel : ModSel) (s : State) : Result :=
  fieldCommand s rd msel belowTwo fun m => invmod (scalar s rs1) m

end Sys2Proof.Machine
end

