-- ==== Sys2Proof/Machine/Sqrt.lean ====
section
/-! DEFINITION. The modular square root (41_sqrt.md): `legendre`, `sqrt_mod` step for step, and the command SQRT. A loop of the
pseudocode is a recursion on fuel; the fuel given covers every pass the rule allows (41_sqrt.md R91, log entry 13). -/

namespace Sys2Proof.Machine

/-- `legendre(x, p)` (41_sqrt.md R90). -/
def legendre (x p : Nat) : Int :=
  let v := powmod x ((p - 1) / 2) p
  if v = p - 1 then -1 else v

/-- Step 2: halve `q` while it is even, counting in `s` (41_sqrt.md R91). -/
def halveLoop : (fuel q s : Nat) → Nat × Nat
  | 0, q, s => (q, s)
  | fuel + 1, q, s => if q % 2 = 0 then halveLoop fuel (q / 2) (s + 1) else (q, s)

/-- Step 4: the smallest `z` from the given one whose Legendre symbol is -1, or `F_SQRT_INTERNAL` when `z` reaches `p`
(41_sqrt.md R91). -/
def nonResidueLoop : (fuel z p : Nat) → Except FaultCause Nat
  | 0, _, _ => .error .sqrtInternal
  | fuel + 1, z, p =>
    if legendre z p = -1 then .ok z
    else if p ≤ z + 1 then .error .sqrtInternal
    else nonResidueLoop fuel (z + 1) p

/-- The search of step 5: the smallest `j` from the given one with `u = 1`, squaring `u` each time; `left` indexes are left below
`m` (41_sqrt.md R91). -/
def orderLoop : (left j u p : Nat) → Option Nat
  | 0, _, _, _ => none
  | left + 1, j, u, p => if u = 1 then some j else orderLoop left (j + 1) (u * u % p) p

/-- Steps 5 and 6: while `t ≠ 1`, find `i`, update `r, c, t, m`; "no root" if no `i` below `m` exists (41_sqrt.md R91). -/
def tonelliLoop : (fuel c t r m p : Nat) → Option Nat
  | 0, _, _, _, _, _ => none
  | fuel + 1, c, t, r, m, p =>
    if t = 1 then some r
    else
      match orderLoop m 0 t p with
      | none => none
      | some i =>
        let b := powmod c (2 ^ (m - i - 1)) p
        let c' := b * b % p
        tonelliLoop fuel c' (t * c' % p) (r * b % p) i p

/-- `sqrt_mod(x, p)` (41_sqrt.md R91): Tonelli-Shanks, which of the two roots is returned being fixed by the algorithm. -/
def sqrtMod (x p : Nat) : Except FaultCause (Option Nat) :=
  if legendre x p ≠ 1 then .ok none
  else
    let (q, s) := halveLoop (p - 1) (p - 1) 0
    if s = 1 then .ok (some (powmod x ((p + 1) / 4) p))
    else
      match nonResidueLoop p 2 p with
      | .error c => .error c
      | .ok z => .ok (tonelliLoop (s + 1) (powmod z q p) (powmod x q p) (powmod x ((q + 1) / 2) p) s p)

/-- SQRT (41_sqrt.md R92). -/
def execSqrt (rd rs1 : SReg) (msel : ModSel) (s : State) : Result :=
  if selectedModulus s msel < 3 ∨ selectedModulus s msel % 2 = 0 then raiseFault .modulus s
  else
    match sqrtMod (scalar s rs1) (selectedModulus s msel) with
    | .error c => raiseFault c s
    | .ok (some v) => .next (setT (setScalar s rd v) true)
    | .ok none => .next (setT s false)

end Sys2Proof.Machine
end

