-- ==== Sys2Proof/Machine/Curve.lean ====
section
/-! DEFINITION. Curve arithmetic (42_curve.md): `contains`, `canonical`, `add`, `smul`, `recover_point`, and the commands CINIT,
PCHK, PREC, PADD, PDBL, SMUL, KEYGEN. -/

namespace Sys2Proof.Machine

/-- `contains(P)` (42_curve.md R101): a congruence on the integers as they stand. -/
def Curve.contains (c : Curve) (P : Point) : Bool :=
  P.inf || decide (P.y * P.y % c.p = (P.x * P.x * P.x + c.a * P.x + c.b) % c.p)

/-- `canonical(P)` (42_curve.md R102). -/
def Curve.canonical (c : Curve) (P : Point) : Bool := P.inf || (decide (P.x < c.p) && decide (P.y < c.p))

/-- The slope `λ` of `add`: of the tangent where the points are the same, else of the chord (42_curve.md R104). -/
def Curve.slope (c : Curve) (P Q : Point) : Except FaultCause Nat :=
  if P.x = Q.x ∧ P.y = Q.y then
    match invmod ((2 * P.y : Nat) : Int) c.p with
    | .ok u => .ok ((3 * P.x * P.x + c.a) * u % c.p)
    | .error e => .error e
  else
    match invmod ((Q.x : Int) - (P.x : Int)) c.p with
    | .ok u => .ok (euclidMod (((Q.y : Int) - (P.y : Int)) * (u : Int)) c.p)
    | .error e => .error e

/-- `x_r` of `add` (42_curve.md R104). -/
def Curve.thirdX (c : Curve) (lam : Nat) (P Q : Point) : Nat :=
  euclidMod ((lam : Int) * (lam : Int) - (P.x : Int) - (Q.x : Int)) c.p

/-- `y_r` of `add` (42_curve.md R104). -/
def Curve.thirdY (c : Curve) (lam : Nat) (P : Point) (xr : Nat) : Nat :=
  euclidMod ((lam : Int) * ((P.x : Int) - (xr : Int)) - (P.y : Int)) c.p

/-- `add(P, Q)` (42_curve.md R104): the two checks on both operands, then the cases in order. -/
def Curve.add (c : Curve) (P Q : Point) : Except FaultCause Point :=
  if ¬(c.canonical P = true ∧ c.canonical Q = true) then .error .range
  else if ¬(c.contains P = true ∧ c.contains Q = true) then .error .notOnCurve
  else if P.inf = true then .ok Q
  else if Q.inf = true then .ok P
  else if P.x = Q.x ∧ (P.y + Q.y) % c.p = 0 then .ok .infinity
  else
    match c.slope P Q with
    | .error e => .error e
    | .ok lam =>
      let xr := c.thirdX lam P Q
      .ok { x := xr, y := c.thirdY lam P xr, inf := false }

/-- The loop of `smul`, one pass per bit of the remaining scalar: accumulate, double, halve (42_curve.md R105). -/
def Curve.smulLoop (c : Curve) : (fuel : Nat) → (result base : Point) → (rem : Nat) → Except FaultCause Point
  | 0, result, _, _ => .ok result
  | fuel + 1, result, base, rem =>
    if rem = 0 then .ok result
    else
      match (if rem % 2 = 1 then c.add result base else .ok result) with
      | .error e => .error e
      | .ok result' =>
        match c.add base base with
        | .error e => .error e
        | .ok base' => Curve.smulLoop c fuel result' base' (rem / 2)

/-- `smul(P, k)` (42_curve.md R105): low bit first, the scalar not reduced; one pass per bit up to the highest set bit. -/
def Curve.smul (c : Curve) (P : Point) (k : Nat) : Except FaultCause Point :=
  c.smulLoop (k.log2 + 1) .infinity P k

/-- `recover_point(x)` (42_curve.md R106). -/
def Curve.recover (c : Curve) (x : Nat) : Except FaultCause (Option Point) :=
  match sqrtMod ((x * x * x + c.a * x + c.b) % c.p) c.p with
  | .error e => .error e
  | .ok none => .ok none
  | .ok (some v) => .ok (some { x := x, y := v, inf := false })

/-- The check before every curve and signature command but CINIT (42_curve.md R100): `F_NO_CURVE` while `CURVE_OK` = 0; else the
command goes on with the curve in the parameter registers. -/
def withCurve (s : State) (k : Curve → Result) : Result :=
  if s.curveOk then k (curveOf s.params) else raiseFault .noCurve s

/-- Write a point result, or fault (42_curve.md R103, 60_exceptions.md R152). -/
def finishPoint (s : State) (pd : PReg) : Except FaultCause Point → Result
  | .ok v => .next (setPoint s pd v)
  | .error e => raiseFault e s

/-- The checks of CINIT in their order; the answer is the first that fails (42_curve.md R107). -/
def Curve.construct (c : Curve) : Except FaultCause Unit :=
  if c.p < 3 ∨ c.p % 2 = 0 then .error .modulus
  else if c.n < 2 then .error .modulus
  else if ¬(c.canonical c.g = true) then .error .range
  else if ¬(c.contains c.g = true) then .error .curveInit
  else
    match c.smul c.g c.n with
    | .error e => .error e
    | .ok V => if V.inf = true then .ok () else .error .curveInit

/-- CINIT (42_curve.md R107). -/
def execCinit (s : State) : Result :=
  match (curveOf s.params).construct with
  | .error e => raiseFault e s
  | .ok _ => .next (setCurveOk s)

/-- PCHK (42_curve.md R108). -/
def execPchk (ps1 : PReg) (s : State) : Result :=
  withCurve s fun c => .next (setT s (c.contains (point s ps1)))

/-- PREC (42_curve.md R109). -/
def execPrec (pd : PReg) (rs1 : SReg) (s : State) : Result :=
  withCurve s fun c =>
    if c.p ≤ scalar s rs1 then raiseFault .range s
    else
      match c.recover (scalar s rs1) with
      | .error e => raiseFault e s
      | .ok (some V) => .next (setT (setPoint s pd V) true)
      | .ok none => .next (setT s false)

/-- PADD (42_curve.md R110). -/
def execPadd (pd ps1 ps2 : PReg) (s : State) : Result :=
  withCurve s fun c => finishPoint s pd (c.add (point s ps1) (point s ps2))

/-- PDBL (42_curve.md R111): exactly `PADD Pd, Pa, Pa`. -/
def execPdbl (pd ps1 : PReg) (s : State) : Result :=
  withCurve s fun c => finishPoint s pd (c.add (point s ps1) (point s ps1))

/-- SMUL (42_curve.md R112). -/
def execSmul (pd ps1 : PReg) (rs2 : SReg) (s : State) : Result :=
  withCurve s fun c => finishPoint s pd (c.smul (point s ps1) (scalar s rs2))

/-- KEYGEN (42_curve.md R113): exactly one draw, spent also when the command then faults. -/
def execKeygen (rd : SReg) (pd : PReg) (s : State) : Result :=
  withCurve s fun c =>
    match draw s.port with
    | .silent after => .next (awaitSource after s)
    | .answered d after =>
      let s' := { s with port := after }
      if d < 1 ∨ c.n ≤ d then raiseFault .rngRange s'
      else
        match c.smul c.g d with
        | .error e => raiseFault e s'
        | .ok Q => .next (setPoint (setScalar s' rd d) pd Q)

end Sys2Proof.Machine
end

