-- ==== Sys2Proof/Machine/Digest.lean ====
section
/-! DEFINITION. The digest (43_sha256.md): constants, word functions, `compress`, padding, `digest_value`, and the commands HRESET,
HAPPEND, HDIGEST. -/

namespace Sys2Proof.Machine

/-- The round constants `K[0..63]` (43_sha256.md R121). -/
def roundConstants : List Word :=
  [0x428a2f98, 0x71374491, 0xb5c0fbcf, 0xe9b5dba5, 0x3956c25b, 0x59f111f1, 0x923f82a4, 0xab1c5ed5] ++
  [0xd807aa98, 0x12835b01, 0x243185be, 0x550c7dc3, 0x72be5d74, 0x80deb1fe, 0x9bdc06a7, 0xc19bf174] ++
  [0xe49b69c1, 0xefbe4786, 0x0fc19dc6, 0x240ca1cc, 0x2de92c6f, 0x4a7484aa, 0x5cb0a9dc, 0x76f988da] ++
  [0x983e5152, 0xa831c66d, 0xb00327c8, 0xbf597fc7, 0xc6e00bf3, 0xd5a79147, 0x06ca6351, 0x14292967] ++
  [0x27b70a85, 0x2e1b2138, 0x4d2c6dfc, 0x53380d13, 0x650a7354, 0x766a0abb, 0x81c2c92e, 0x92722c85] ++
  [0xa2bfe8a1, 0xa81a664b, 0xc24b8b70, 0xc76c51a3, 0xd192e819, 0xd6990624, 0xf40e3585, 0x106aa070] ++
  [0x19a4c116, 0x1e376c08, 0x2748774c, 0x34b0bcb5, 0x391c0cb3, 0x4ed8aa4a, 0x5b9cca4f, 0x682e6ff3] ++
  [0x748f82ee, 0x78a5636f, 0x84c87814, 0x8cc70208, 0x90befffa, 0xa4506ceb, 0xbef9a3f7, 0xc67178f2]

/-! The six word functions (43_sha256.md R122). -/

def ch (x y z : Word) : Word := (x &&& y) ^^^ (~~~x &&& z)
def maj (x y z : Word) : Word := (x &&& y) ^^^ (x &&& z) ^^^ (y &&& z)
def bsig0 (x : Word) : Word := x.rotateRight 2 ^^^ x.rotateRight 13 ^^^ x.rotateRight 22
def bsig1 (x : Word) : Word := x.rotateRight 6 ^^^ x.rotateRight 11 ^^^ x.rotateRight 25
def ssig0 (x : Word) : Word := x.rotateRight 7 ^^^ x.rotateRight 18 ^^^ x >>> 3
def ssig1 (x : Word) : Word := x.rotateRight 17 ^^^ x.rotateRight 19 ^^^ x >>> 10

/-- The bytes of a block as big-endian words (43_sha256.md R123, 20_memory.md R37). -/
def blockWords : List Byte → List Word
  | b0 :: b1 :: b2 :: b3 :: rest => wordOfBytes b0 b1 b2 b3 :: blockWords rest
  | _ => []

/-- `w[t]` of the message schedule from the words before it (43_sha256.md R123). -/
def nextWord (w : List Word) : Word :=
  let t := w.length
  ssig1 (w.getD (t - 2) 0) + w.getD (t - 7) 0 + ssig0 (w.getD (t - 15) 0) + w.getD (t - 16) 0

/-- The schedule with `k` more words (43_sha256.md R123). -/
def extendSchedule : (k : Nat) → List Word → List Word
  | 0, w => w
  | k + 1, w => extendSchedule k (w ++ [nextWord w])

/-- The working words `a` to `h` (43_sha256.md R123). -/
structure Working where
  a : Word
  b : Word
  c : Word
  d : Word
  e : Word
  f : Word
  g : Word
  h : Word
  deriving DecidableEq, Repr

/-- One round with constant `k` and schedule word `w`; every assignment uses the values at the round's start (43_sha256.md R123). -/
def round (v : Working) (k w : Word) : Working :=
  let t1 := v.h + bsig1 v.e + ch v.e v.f v.g + k + w
  let t2 := bsig0 v.a + maj v.a v.b v.c
  { a := t1 + t2, b := v.a, c := v.b, d := v.c, e := v.d + t1, f := v.e, g := v.f, h := v.g }

/-- The rounds, over the constants and the schedule in step (43_sha256.md R123). -/
def rounds : List Word → List Word → Working → Working
  | k :: ks, w :: ws, v => rounds ks ws (round v k w)
  | _, _, v => v

/-- `compress(Hin, block)` for a block of 64 bytes (43_sha256.md R123). -/
def compress (hin : Vector Word 8) (block : List Byte) : Vector Word 8 :=
  let v := rounds roundConstants (extendSchedule 48 (blockWords block))
    { a := hin[0], b := hin[1], c := hin[2], d := hin[3], e := hin[4], f := hin[5], g := hin[6], h := hin[7] }
  #v[hin[0] + v.a, hin[1] + v.b, hin[2] + v.c, hin[3] + v.d, hin[4] + v.e, hin[5] + v.f, hin[6] + v.g, hin[7] + v.h]

/-- How many zero bytes bring a length to 56 modulo 64: the fewest (43_sha256.md R125). -/
def zerosNeeded (len : Nat) : Nat := (120 - len % 64) % 64

/-- The eight bytes of a 64-bit value, the most significant first (43_sha256.md R125). -/
def bytesOf64 (v : BitVec 64) : List Byte :=
  [v.extractLsb' 56 8, v.extractLsb' 48 8, v.extractLsb' 40 8, v.extractLsb' 32 8,
   v.extractLsb' 24 8, v.extractLsb' 16 8, v.extractLsb' 8 8, v.extractLsb' 0 8]

/-- `tail` of `digest_value`: `HBUF`, 0x80, zero bytes, the bit length `8·HLEN` (43_sha256.md R125). -/
def paddedTail (d : DigestState) : List Byte :=
  let marked := d.hbuf ++ [0x80]
  marked ++ List.replicate (zerosNeeded marked.length) 0 ++ bytesOf64 (BitVec.ofNat 64 (8 * d.hlen.toNat))

/-- `compress` over `n` blocks of 64 bytes, in order (43_sha256.md R125). -/
def compressBlocks : (n : Nat) → Vector Word 8 → List Byte → Vector Word 8
  | 0, h, _ => h
  | n + 1, h, bytes => compressBlocks n (compress h (bytes.take 64)) (bytes.drop 64)

/-- The eight words as one integer, the most significant first (43_sha256.md R125, 20_memory.md R37). -/
def wideOfWords (h : Vector Word 8) : Wide :=
  h[0] ++ h[1] ++ h[2] ++ h[3] ++ h[4] ++ h[5] ++ h[6] ++ h[7]

/-- `digest_value(H, HBUF, HLEN)` (43_sha256.md R125). The check of the tail's length is D0's and never fails. -/
def digestValue (d : DigestState) : Except FaultCause Wide :=
  if (paddedTail d).length % 64 ≠ 0 then .error .padBlock
  else .ok (wideOfWords (compressBlocks ((paddedTail d).length / 64) d.h (paddedTail d)))

/-- Append one byte; a full buffer is compressed at once (43_sha256.md R126). -/
def appendByte (d : DigestState) (v : Byte) : DigestState :=
  if (d.hbuf ++ [v]).length = 64 then { h := compress d.h (d.hbuf ++ [v]), hbuf := [], hlen := d.hlen + 1 }
  else { d with hbuf := d.hbuf ++ [v], hlen := d.hlen + 1 }

/-- Append bytes in order (43_sha256.md R126). -/
def appendBytes (d : DigestState) (bytes : List Byte) : DigestState := bytes.foldl appendByte d

/-- HRESET (43_sha256.md R124). -/
def execHreset (s : State) : Result := .next { s with digest := .initial }

/-- HAPPEND (43_sha256.md R126): the length is checked before any byte is taken. -/
def execHappend (len : BitVec 12) (s : State) : Result :=
  if Config.hashMaxBytes < s.digest.hlen.toNat + len.toNat then raiseFault .hashLen s
  else .next { s with digest := appendBytes s.digest (memRead s 0 len.toNat) }

/-- HDIGEST (43_sha256.md R127): the DigestState is not changed. -/
def execHdigest (rd : SReg) (s : State) : Result :=
  match digestValue s.digest with
  | .error e => raiseFault e s
  | .ok v => .next (writeScalar s rd v)

end Sys2Proof.Machine
end

