-- ==== Sys2Proof/Machine/Signature.lean ====
section
/-! DEFINITION. ECDSA (44_ecdsa.md): the commands SIGN and VERIFY. -/

namespace Sys2Proof.Machine

/-- How the signing loop ends: with a signature, in a fault, or never, each with the port after the draws made. -/
inductive Signing where
  | signed (r s : Nat) (after : RandomPort)
  | faulted (cause : FaultCause) (after : RandomPort)
  | silent (after : RandomPort)
  deriving DecidableEq, Repr

/-- `r` of one iteration: `Rp.x mod n`, and 0 for infinity, which has no `x` (44_ecdsa.md R141). -/
def Curve.signR (c : Curve) (Rp : Point) : Nat := if Rp.inf = true then 0 else Rp.x % c.n

/-- `s` of one iteration: `k^-1 · (e + d·r) mod n` (44_ecdsa.md R141). -/
def Curve.signS (c : Curve) (k e d r : Nat) : Except FaultCause Nat :=
  match invmod (k : Int) c.n with
  | .error c => .error c
  | .ok u => .ok (u * (e + d * r) % c.n)

/-- The signing loop with `tries` iterations left (44_ecdsa.md R141): one draw an iteration, a retry when `r` or `s` is 0,
`F_SIGN_RETRY` when none is left. -/
def Curve.signLoop (c : Curve) (digest : DigestState) (d : Nat) : (tries : Nat) → RandomPort → Signing
  | 0, port => .faulted .signRetry port
  | tries + 1, port =>
    match draw port with
    | .silent after => .silent after
    | .answered k after =>
      if k < 1 ∨ c.n ≤ k then .faulted .rngRange after
      else
        match c.smul c.g k with
        | .error e => .faulted e after
        | .ok Rp =>
          if c.signR Rp = 0 then Curve.signLoop c digest d tries after
          else
            match digestValue digest with
            | .error e => .faulted e after
            | .ok e =>
              match c.signS k e.toNat d (c.signR Rp) with
              | .error x => .faulted x after
              | .ok s => if s = 0 then Curve.signLoop c digest d tries after else .signed (c.signR Rp) s after

/-- What SIGN does with the loop's end: the draws stay spent, both destinations are written or neither (44_ecdsa.md R141). -/
def finishSign (s : State) (rdR rdS : SReg) : Signing → Result
  | .signed r sg after => .next (setScalar (setScalar { s with port := after } rdR r) rdS sg)
  | .faulted e after => raiseFault e { s with port := after }
  | .silent after => .next (awaitSource after s)

/-- SIGN (44_ecdsa.md R141). -/
def execSign (rdR rdS rsD : SReg) (s : State) : Result :=
  withCurve s fun c =>
    if scalar s rsD < 1 ∨ c.n ≤ scalar s rsD then raiseFault .range s
    else finishSign s rdR rdS (c.signLoop s.digest (scalar s rsD) Config.signRetryLimit s.port)

/-- The last part of VERIFY: `P = add(smul(G, u1), smul(Q, u2))`, then `(P.x mod n) = r` (44_ecdsa.md R142). -/
def Curve.verifyPoint (c : Curve) (r u1 u2 : Nat) (Q : Point) : Except FaultCause Bool :=
  match c.smul c.g u1 with
  | .error e => .error e
  | .ok A =>
    match c.smul Q u2 with
    | .error e => .error e
    | .ok B =>
      match c.add A B with
      | .error e => .error e
      | .ok Pt => .ok (!Pt.inf && decide (Pt.x % c.n = r))

/-- The equations of VERIFY, after the checks of key and range (44_ecdsa.md R142): an `s` with no inverse gives false. -/
def Curve.verifyEquations (c : Curve) (e r s : Nat) (Q : Point) : Except FaultCause Bool :=
  if Nat.gcd s c.n ≠ 1 then .ok false
  else
    match invmod (s : Int) c.n with
    | .error x => .error x
    | .ok sInv => c.verifyPoint r (e * sInv % c.n) (r * sInv % c.n) Q

/-- The value VERIFY gives `T`, its checks in the order written (44_ecdsa.md R142). -/
def Curve.verifies (c : Curve) (digest : DigestState) (r s : Nat) (Q : Point) : Except FaultCause Bool :=
  if ¬(c.canonical Q = true) then .ok false
  else if ¬(c.contains Q = true) then .ok false
  else
    match c.smul Q c.n with
    | .error e => .error e
    | .ok V =>
      if ¬(V.inf = true) then .ok false
      else if r < 1 ∨ c.n ≤ r then .ok false
      else if s < 1 ∨ c.n ≤ s then .ok false
      else
        match digestValue digest with
        | .error e => .error e
        | .ok e => c.verifyEquations e.toNat r s Q

/-- VERIFY (44_ecdsa.md R142): nothing but `T` is written. -/
def execVerify (rsR rsS : SReg) (psQ : PReg) (s : State) : Result :=
  withCurve s fun c =>
    match c.verifies s.digest (scalar s rsR) (scalar s rsS) (point s psQ) with
    | .error e => raiseFault e s
    | .ok b => .next (setT s b)

end Sys2Proof.Machine
end

