-- ==== Sys2Proof/Machine/Dispatch.lean ====
section
/-! DEFINITION. One arm per command: step (4) of 30_encoding.md R50, run on the state in which `CMD` holds the command's word. -/

namespace Sys2Proof.Machine

def exec (i : Instr) (s : State) : Host.Outcome State Fault Refusal :=
  match i with
  | .modadd rd rs1 rs2 msel => Sys2Proof.Machine.execModadd rd rs1 rs2 msel s
  | .modsub rd rs1 rs2 msel => Sys2Proof.Machine.execModsub rd rs1 rs2 msel s
  | .modmul rd rs1 rs2 msel => Sys2Proof.Machine.execModmul rd rs1 rs2 msel s
  | .montmul rd rs1 rs2 msel => Sys2Proof.Machine.execMontmul rd rs1 rs2 msel s
  | .modexp rd rs1 rs2 msel => Sys2Proof.Machine.execModexp rd rs1 rs2 msel s
  | .modinv rd rs1 msel => Sys2Proof.Machine.execModinv rd rs1 msel s
  | .sqrt rd rs1 msel => Sys2Proof.Machine.execSqrt rd rs1 msel s
  | .cinit => Sys2Proof.Machine.execCinit s
  | .pchk ps1 => Sys2Proof.Machine.execPchk ps1 s
  | .prec pd rs1 => Sys2Proof.Machine.execPrec pd rs1 s
  | .padd pd ps1 ps2 => Sys2Proof.Machine.execPadd pd ps1 ps2 s
  | .pdbl pd ps1 => Sys2Proof.Machine.execPdbl pd ps1 s
  | .smul pd ps1 rs2 => Sys2Proof.Machine.execSmul pd ps1 rs2 s
  | .keygen rd pd => Sys2Proof.Machine.execKeygen rd pd s
  | .hreset => Sys2Proof.Machine.execHreset s
  | .happend len => Sys2Proof.Machine.execHappend len s
  | .hdigest rd => Sys2Proof.Machine.execHdigest rd s
  | .sign rdR rdS rsD => Sys2Proof.Machine.execSign rdR rdS rsD s
  | .verify rsR rsS psQ => Sys2Proof.Machine.execVerify rsR rsS psQ s

end Sys2Proof.Machine
end

