-- ==== Sys2Proof/Machine/Sequencer.lean ====
section
/-! DEFINITION. What the block does with one host event: bus transactions, the issue of a command (30_encoding.md R50), resets. -/

namespace Sys2Proof.Machine

/-- The bus answers the host (20_memory.md R31). -/
def reply (r : BusReply) (s : State) : State := { s with replies := r :: s.replies }

/-- A bus transaction completes with an answer; a command that waits for the random source leaves its transaction outstanding
(20_memory.md R32). -/
def completeWith (r : BusReply) : Result → Result
  | .next s => .next (if s.waiting then s else reply r s)
  | .fault f => .fault f
  | .refused x => .refused x

/-- `CMD <- w` (30_encoding.md R50, step 2). -/
def latchCommand (w : Word) (s : State) : State := { s with cmd := w }

/-- Steps (2) to (4) of 30_encoding.md R50: `CMD <- w`, decode, `F_ILLEGAL_CMD` or the command's rule. -/
def issue (w : Word) (s : State) : Result :=
  match decode w with
  | .command i => exec i (latchCommand w s)
  | .illegal _ => raiseFault .illegalCmd (latchCommand w s)

/-- The soft reset (70_reset_and_hazards.md R181): a write to `CTRL` with bit 0 set resets the block, in any state; one with bit 0
clear does nothing. -/
def writeCtrl (v : Word) (s : State) : State := if v.getLsbD 0 then resetBlock s else s

/-- The answer to a write that only stores a value: done, or refused with nothing changed (20_memory.md R31). -/
def storeAnswer (s : State) : Option State → Result
  | some s' => .next (reply .done s')
  | none => .next (reply .busError s)

/-- A write to any register but `CTRL`: refused in the FAULT state (20_memory.md R44), else a command or a store. -/
def writeRegister (r : BusReg) (v : Word) (s : State) : Result :=
  if s.fault then .next (reply .busError s)
  else
    match r with
    | .cmd => completeWith .done (issue v s)
    | r => storeAnswer s (storeRegister s r v)

/-- `BusWrite(off, v)` (20_memory.md R30, R31, R44). -/
def busWrite (off : Nat) (v : Word) (s : State) : Result :=
  match busRegister off with
  | none => .next (reply .busError s)
  | some .ctrl => .next (reply .done (writeCtrl v s))
  | some r => writeRegister r v s

/-- One host event (20_memory.md R31, R32, R40; 70_reset_and_hazards.md R180). -/
def hostEvent (e : HostEvent) (s : State) : Result :=
  match e with
  | .read off => .next (reply (busRead s off) s)
  | .write off v => busWrite off v s
  | .oddRead _ _ => .next (reply .busError s)
  | .oddWrite _ _ => .next (reply .busError s)
  | .hardReset => .next (resetBlock s)

/-- Take the next host event off the queue; with none to come the block waits (70_reset_and_hazards.md R180, 60_exceptions.md R165,
log entry 3). -/
def acceptEvent (s : State) : Result :=
  match s.pending with
  | [] => .next s
  | e :: rest => hostEvent e { s with pending := rest }

/-- The events without the first reset among them; none where there is none. -/
def takeReset : List HostEvent → Option (List HostEvent)
  | [] => none
  | .hardReset :: rest => some rest
  | .read off :: rest => (takeReset rest).map (.read off :: ·)
  | .write off v :: rest => (takeReset rest).map (.write off v :: ·)
  | .oddRead width off :: rest => (takeReset rest).map (.oddRead width off :: ·)
  | .oddWrite width off :: rest => (takeReset rest).map (.oddWrite width off :: ·)

/-- While a command waits for the random source its transaction is outstanding and no other is accepted (20_memory.md R32); the reset
input acts all the same: the command is abandoned, without an answer (70_reset_and_hazards.md R180). With no reset to come the block
hangs (R186, log entry 5). -/
def abandonCommand (s : State) : Result :=
  match takeReset s.pending with
  | some rest => .next (resetBlock { s with pending := rest })
  | none => .fault .portSilent

/-- The next thing that happens to the block. -/
def runPending (s : State) : Result := if s.waiting then abandonCommand s else acceptEvent s

/-- The event that issues a word as a command: `BusWrite(0x000, w)` (30_encoding.md R50). -/
def commandEvent (w : Word) : HostEvent := .write 0x000 w

end Sys2Proof.Machine
end

