-- ==== Sys2Proof/Machine/Step.lean ====
section
/-! DEFINITION. One step of the machine: one host event (20_memory.md R32, log entry 1). -/

namespace Sys2Proof.Machine

def step (s : State) : Host.Outcome State Fault Refusal := runPending s

/-- `s` with the word `w` as the next command to be issued. The block fetches nothing (10_state.md R20): its next command is the
data of the next host write to `CMD`, so the write is put at the head of the host's list (log entry 18). -/
def State.withFetchWord (s : State) (nbits w : Nat) : State :=
  { s with pending := commandEvent (BitVec.ofNat 32 (w % 2 ^ nbits)) :: s.pending }

end Sys2Proof.Machine
end

