-- ==== Sys2Proof/Machine/HostProgram.lean ====
section
/-! DEFINITION. The host's side, outside the block: the pseudo-instructions as lists of host events (30_encoding.md R59), the
assembler spelling of a command (R58), the string form of a digest (43_sha256.md R128), and the address of a register in the host's
address space (20_memory.md R38). -/

namespace Sys2Proof.Machine

/-- The byte address of an offset (20_memory.md R38). -/
def hostAddress (off : Nat) : Nat := Config.base + off

/-! ## Pseudo-instructions (30_encoding.md R59) -/

/-- The eight words of a value, word 0 first. -/
def lanesOf (v : Wide) : List Word := (List.range 8).map fun j => laneOf v (BitVec.ofNat 3 j)

/-- Writes of consecutive words from an offset on. -/
def writeWords : Nat → List Word → List HostEvent
  | _, [] => []
  | off, w :: ws => .write off w :: writeWords (off + 4) ws

/-- Reads of `n` consecutive words from an offset on. -/
def readWords (off n : Nat) : List HostEvent := (List.range n).map fun j => .read (off + 4 * j)

/-- A line that is a command stands for `WR 0x000, <its encoding>`. -/
def cmdLine (i : Instr) : List HostEvent := [commandEvent (encode i)]

def wrs (i : SReg) (v : Wide) : List HostEvent := writeWords (0x200 + 0x20 * i.toNat) (lanesOf v)
def rds (i : SReg) : List HostEvent := readWords (0x200 + 0x20 * i.toNat) 8

/-- `WRP Pi, (x, y)`. -/
def wrp (i : PReg) (x y : Wide) : List HostEvent :=
  writeWords (0x400 + 0x80 * i.toNat) (lanesOf x) ++ writeWords (0x420 + 0x80 * i.toNat) (lanesOf y) ++
    [.write (0x440 + 0x80 * i.toNat) 0]

/-- `WRP Pi, INF`. -/
def wrpInf (i : PReg) : List HostEvent := [.write (0x440 + 0x80 * i.toNat) 1]

/-- `RDP Pi`: the seventeen words. -/
def rdp (i : PReg) : List HostEvent := readWords (0x400 + 0x80 * i.toNat) 17

def wrca (v : Word) : List HostEvent := [.write 0x020 v]
def wrcb (v : Word) : List HostEvent := [.write 0x024 v]
def wrginf (v : Word) : List HostEvent := [.write 0x028 v]
def wrcp (v : Wide) : List HostEvent := writeWords 0x040 (lanesOf v)
def wrcn (v : Wide) : List HostEvent := writeWords 0x060 (lanesOf v)
def wrgx (v : Wide) : List HostEvent := writeWords 0x080 (lanesOf v)
def wrgy (v : Wide) : List HostEvent := writeWords 0x0A0 (lanesOf v)

/-- Bytes packed four to a word as 20_memory.md R36 says, the unused low bytes of the last word 0. -/
def packBytes : List Byte → List Word
  | [] => []
  | [b0] => [wordOfBytes b0 0 0 0]
  | [b0, b1] => [wordOfBytes b0 b1 0 0]
  | [b0, b1, b2] => [wordOfBytes b0 b1 b2 0]
  | b0 :: b1 :: b2 :: b3 :: rest => wordOfBytes b0 b1 b2 b3 :: packBytes rest

def wrmsg (bytes : List Byte) : List HostEvent := writeWords 0x100 (packBytes bytes)

/-- `SRESET` is `WR 0x010, 1`. -/
def sreset : List HostEvent := [.write 0x010 1]

/-! ## Strings -/

/-- The lowercase hexadecimal digit of a 4-bit value. -/
def hexDigit (d : Nat) : Char := ("0123456789abcdef".toList).getD d '0'

/-- `hex64(v)`: 64 characters, character `i` the digit of `v[255 - 4i : 252 - 4i]` (43_sha256.md R128). -/
def hex64 (v : Wide) : String :=
  String.ofList ((List.range 64).map fun i => hexDigit (v.extractLsb' (252 - 4 * i) 4).toNat)

def scalarName (i : SReg) : String := "S" ++ toString i.toNat
def pointName (i : PReg) : String := "P" ++ toString i.toNat
def mselName : ModSel → String
  | .p => "P"
  | .n => "N"

/-- A mnemonic and its operands, separated by commas (30_encoding.md R58). -/
def asmLine (mnemonic : String) (operands : List String) : String :=
  match operands with
  | [] => mnemonic
  | o :: os => mnemonic ++ " " ++ os.foldl (fun acc x => acc ++ ", " ++ x) o

/-- The assembler spelling of a command (30_encoding.md R58). -/
def asmOf : Instr → String
  | .modadd rd rs1 rs2 m => asmLine "MODADD" [scalarName rd, scalarName rs1, scalarName rs2, mselName m]
  | .modsub rd rs1 rs2 m => asmLine "MODSUB" [scalarName rd, scalarName rs1, scalarName rs2, mselName m]
  | .modmul rd rs1 rs2 m => asmLine "MODMUL" [scalarName rd, scalarName rs1, scalarName rs2, mselName m]
  | .montmul rd rs1 rs2 m => asmLine "MONTMUL" [scalarName rd, scalarName rs1, scalarName rs2, mselName m]
  | .modexp rd rs1 rs2 m => asmLine "MODEXP" [scalarName rd, scalarName rs1, scalarName rs2, mselName m]
  | .modinv rd rs1 m => asmLine "MODINV" [scalarName rd, scalarName rs1, mselName m]
  | .sqrt rd rs1 m => asmLine "SQRT" [scalarName rd, scalarName rs1, mselName m]
  | .cinit => asmLine "CINIT" []
  | .pchk ps1 => asmLine "PCHK" [pointName ps1]
  | .prec pd rs1 => asmLine "PREC" [pointName pd, scalarName rs1]
  | .padd pd ps1 ps2 => asmLine "PADD" [pointName pd, pointName ps1, pointName ps2]
  | .pdbl pd ps1 => asmLine "PDBL" [pointName pd, pointName ps1]
  | .smul pd ps1 rs2 => asmLine "SMUL" [pointName pd, pointName ps1, scalarName rs2]
  | .keygen rd pd => asmLine "KEYGEN" [scalarName rd, pointName pd]
  | .hreset => asmLine "HRESET" []
  | .happend len => asmLine "HAPPEND" [toString len.toNat]
  | .hdigest rd => asmLine "HDIGEST" [scalarName rd]
  | .sign rdR rdS rsD => asmLine "SIGN" [scalarName rdR, scalarName rdS, scalarName rsD]
  | .verify rsR rsS psQ => asmLine "VERIFY" [scalarName rsR, scalarName rsS, pointName psQ]

end Sys2Proof.Machine
end

