-- ==== Sys2Proof/Machine/Units.lean ====
section
/-! DEFINITION. The nine units of the block (00_scope.md R1, R2, R3) and which command uses which (30_encoding.md R57). The table is
descriptive: no meaning depends on it, since a program cannot see the units. -/

namespace Sys2Proof.Machine

/-- The nine units (00_scope.md R1). -/
inductive BlockUnit where
  | montgomeryMult
  | modularInverseEngine
  | tonelliShanksSqrt
  | eccPointAdd
  | eccPointDouble
  | eccScalarMult
  | sha256CompressionCore
  | ecdsaSignUnit
  | ecdsaVerifyUnit
  deriving DecidableEq, Repr

/-- A unit's place in the one-way order of 00_scope.md R3: a unit uses only units of a lower rank. -/
def unitRank : BlockUnit → Nat
  | .montgomeryMult => 0
  | .sha256CompressionCore => 0
  | .modularInverseEngine => 1
  | .tonelliShanksSqrt => 1
  | .eccPointDouble => 2
  | .eccPointAdd => 3
  | .eccScalarMult => 4
  | .ecdsaSignUnit => 5
  | .ecdsaVerifyUnit => 5

/-- The units a unit uses directly (00_scope.md R3). -/
def unitUses : BlockUnit → List BlockUnit
  | .montgomeryMult => []
  | .sha256CompressionCore => []
  | .modularInverseEngine => [.montgomeryMult]
  | .tonelliShanksSqrt => [.montgomeryMult]
  | .eccPointDouble => [.montgomeryMult, .modularInverseEngine]
  | .eccPointAdd => [.eccPointDouble, .montgomeryMult, .modularInverseEngine, .tonelliShanksSqrt]
  | .eccScalarMult => [.eccPointAdd, .montgomeryMult, .modularInverseEngine]
  | .ecdsaSignUnit => [.eccScalarMult, .eccPointAdd, .modularInverseEngine, .montgomeryMult, .sha256CompressionCore]
  | .ecdsaVerifyUnit => [.eccScalarMult, .eccPointAdd, .modularInverseEngine, .montgomeryMult, .sha256CompressionCore]

/-- The unit that owns a command (30_encoding.md R57). -/
def ownerOf : Instr → BlockUnit
  | .modadd _ _ _ _ => .montgomeryMult
  | .modsub _ _ _ _ => .montgomeryMult
  | .modmul _ _ _ _ => .montgomeryMult
  | .montmul _ _ _ _ => .montgomeryMult
  | .modexp _ _ _ _ => .montgomeryMult
  | .modinv _ _ _ => .modularInverseEngine
  | .sqrt _ _ _ => .tonelliShanksSqrt
  | .cinit => .eccScalarMult
  | .pchk _ => .eccPointAdd
  | .prec _ _ => .eccPointAdd
  | .padd _ _ _ => .eccPointAdd
  | .pdbl _ _ => .eccPointDouble
  | .smul _ _ _ => .eccScalarMult
  | .keygen _ _ => .ecdsaSignUnit
  | .hreset => .sha256CompressionCore
  | .happend _ => .sha256CompressionCore
  | .hdigest _ => .sha256CompressionCore
  | .sign _ _ _ => .ecdsaSignUnit
  | .verify _ _ _ => .ecdsaVerifyUnit

/-- The units a command also uses (30_encoding.md R57). -/
def alsoUses : Instr → List BlockUnit
  | .modadd _ _ _ _ => []
  | .modsub _ _ _ _ => []
  | .modmul _ _ _ _ => []
  | .montmul _ _ _ _ => []
  | .modexp _ _ _ _ => []
  | .modinv _ _ _ => [.montgomeryMult]
  | .sqrt _ _ _ => [.montgomeryMult]
  | .cinit => [.eccPointAdd, .eccPointDouble, .montgomeryMult, .modularInverseEngine]
  | .pchk _ => [.montgomeryMult]
  | .prec _ _ => [.montgomeryMult, .tonelliShanksSqrt]
  | .padd _ _ _ => [.eccPointDouble, .montgomeryMult, .modularInverseEngine]
  | .pdbl _ _ => [.eccPointAdd, .montgomeryMult, .modularInverseEngine]
  | .smul _ _ _ => [.eccPointAdd, .eccPointDouble, .montgomeryMult, .modularInverseEngine]
  | .keygen _ _ => [.eccScalarMult, .eccPointAdd, .eccPointDouble, .montgomeryMult, .modularInverseEngine]
  | .hreset => []
  | .happend _ => []
  | .hdigest _ => []
  | .sign _ _ _ => [.eccScalarMult, .modularInverseEngine, .montgomeryMult, .sha256CompressionCore]
  | .verify _ _ _ => [.eccScalarMult, .eccPointAdd, .modularInverseEngine, .montgomeryMult, .sha256CompressionCore]

end Sys2Proof.Machine
end

