-- ==== Sys2Proof/Safety.lean ====
section
/-! DEFINITION. What counts as a good run (70_reset_and_hazards.md R187) and the invariants claims are made under. -/

namespace Sys2Proof

open Machine

/-- A run ends well when every transaction of the program has completed (none is to come and no command is waiting), the block is not in the FAULT state and no transaction was
refused with a bus error (70_reset_and_hazards.md R187). -/
def Safety.goodEnd (s : State) : Bool :=
  s.pending.isEmpty && !s.waiting && !s.fault && !(s.replies.contains .busError)

/-- `HBUF` holds the bytes past the last whole block (10_state.md R21) and the count is within `HASH_MAX_BYTES` (43_sha256.md R126). -/
def Safety.digestOk (d : DigestState) : Prop :=
  d.hbuf.length = d.hlen.toNat % 64 ∧ d.hlen.toNat ≤ Config.hashMaxBytes

/-- `FCAUSE` and `FINFO` are 0 outside the FAULT state; inside it `FCAUSE` holds the code of a cause and `FINFO` the word in `CMD`
(10_state.md R17, 60_exceptions.md R152, R154). -/
def Safety.faultRecordOk (s : State) : Prop :=
  (s.fault = false → s.fcause = 0 ∧ s.finfo = 0) ∧
  (s.fault = true → (∃ c, s.fcause = faultCode c) ∧ s.finfo = s.cmd)

/-- `CURVE_OK` = 1 means the parameter registers hold a curve that CINIT accepts (42_curve.md R100, R107). -/
def Safety.curveOkConstructed (s : State) : Prop :=
  s.curveOk = true → (curveOf s.params).construct = .ok ()

/-- A command that waits for the random source has passed the check of `CURVE_OK` (42_curve.md R100) and no fault has been taken: in
the FAULT state no command runs (20_memory.md R44). -/
def Safety.waitingOk (s : State) : Prop := s.waiting = true → s.curveOk = true ∧ s.fault = false

/-- The invariant of the block: the message buffer is canonical, the DigestState is consistent, the fault record matches the
FAULT state, `CURVE_OK` vouches for the parameters, and a waiting command is one that may wait. -/
def Safety.Inv (s : State) : Prop :=
  Memory.wf s.msg = true ∧ Safety.digestOk s.digest ∧ Safety.faultRecordOk s ∧ Safety.curveOkConstructed s ∧
  Safety.waitingOk s

/-- The part of the state that is the spec's, without the host's list, the replies and the random source (10_state.md R26). -/
def Safety.sameBlock (s t : State) : Prop :=
  t.scalars = s.scalars ∧ t.points = s.points ∧ t.params = s.params ∧ t.t = s.t ∧ t.fault = s.fault ∧
  t.curveOk = s.curveOk ∧ t.fcause = s.fcause ∧ t.finfo = s.finfo ∧ t.cmd = s.cmd ∧ t.digest = s.digest ∧
  t.msg = s.msg ∧ t.waiting = s.waiting ∧ t.epoch = s.epoch

end Sys2Proof
end

