-- ==== Sys2Proof/Certificates/Slice0/Obligations.lean ====
section
/-! DEFINITION. The statements for the provers. Each docstring names the rule of spec/ it formalises; a docstring that says so rests
on a choice of the model. -/

namespace Sys2Proof.Claims

open Sys2Proof.Machine

/-- The state after a fault with a code and nothing else written (60_exceptions.md R152). -/
def faultState (code : Byte) (s : State) : State := { s with fault := true, fcause := code, finfo := s.cmd }

/-- The state with `S[rd]` holding an integer (00_scope.md R8). -/
def withScalar (s : State) (rd : SReg) (v : Nat) : State :=
  { s with scalars := s.scalars.set rd.toNat (BitVec.ofNat 256 v) rd.isLt }

/-- The state with `P[pd]` holding an image (00_scope.md R8). -/
def withPoint (s : State) (pd : PReg) (r : PointReg) : State :=
  { s with points := s.points.set pd.toNat r pd.isLt }

/-- The image of the affine point `(x, y)`. -/
def affine (x y : Nat) : PointReg := { x := BitVec.ofNat 256 x, y := BitVec.ofNat 256 y, inf := false }

/-- The image of infinity (42_curve.md R103). -/
def infinityImage : PointReg := { x := 0, y := 0, inf := true }

/-- The image a point is written as (42_curve.md R103). -/
def imageOf (v : Point) : PointReg := if v.inf = true then infinityImage else affine v.x v.y

/-- The selected modulus (40_field_arithmetic.md R70). -/
def modulus (s : State) (sel : ModSel) : Nat :=
  match sel with
  | .p => s.params.cp.toNat
  | .n => s.params.cn.toNat

/-- `imm12` of a command that carries `msel` (30_encoding.md R53). -/
def mselImm (sel : ModSel) : BitVec 12 :=
  match sel with
  | .p => 0
  | .n => 1

/-- A command word from its opcode and fields (30_encoding.md R51). -/
def wordOf (op : BitVec 8) (fa fb fc : BitVec 4) (imm : BitVec 12) : Word := op ++ fa ++ fb ++ fc ++ imm

/-- The field that names a point register: bit 3 is 0 (30_encoding.md R52). -/
def pointField (i : PReg) : BitVec 4 := (0 : BitVec 1) ++ i

/-- The scalar registers a command may write (30_encoding.md R54). -/
def scalarDests : Instr → List SReg
  | .modadd rd _ _ _ => [rd]
  | .modsub rd _ _ _ => [rd]
  | .modmul rd _ _ _ => [rd]
  | .montmul rd _ _ _ => [rd]
  | .modexp rd _ _ _ => [rd]
  | .modinv rd _ _ => [rd]
  | .sqrt rd _ _ => [rd]
  | .cinit => []
  | .pchk _ => []
  | .prec _ _ => []
  | .padd _ _ _ => []
  | .pdbl _ _ => []
  | .smul _ _ _ => []
  | .keygen rd _ => [rd]
  | .hreset => []
  | .happend _ => []
  | .hdigest rd => [rd]
  | .sign rdR rdS _ => [rdR, rdS]
  | .verify _ _ _ => []

/-- The point registers a command may write (30_encoding.md R54). -/
def pointDests : Instr → List PReg
  | .modadd _ _ _ _ => []
  | .modsub _ _ _ _ => []
  | .modmul _ _ _ _ => []
  | .montmul _ _ _ _ => []
  | .modexp _ _ _ _ => []
  | .modinv _ _ _ => []
  | .sqrt _ _ _ => []
  | .cinit => []
  | .pchk _ => []
  | .prec pd _ => [pd]
  | .padd pd _ _ => [pd]
  | .pdbl pd _ => [pd]
  | .smul pd _ _ => [pd]
  | .keygen _ pd => [pd]
  | .hreset => []
  | .happend _ => []
  | .hdigest _ => []
  | .sign _ _ _ => []
  | .verify _ _ _ => []

/-- The commands that write `T` (10_state.md R19). -/
def writesT : Instr → Bool
  | .sqrt _ _ _ => true
  | .pchk _ => true
  | .prec _ _ => true
  | .verify _ _ _ => true
  | _ => false

/-- The commands that draw (10_state.md R24). -/
def draws : Instr → Bool
  | .keygen _ _ => true
  | .sign _ _ _ => true
  | _ => false

/-- The commands that change the DigestState (10_state.md R21). -/
def writesDigest : Instr → Bool
  | .hreset => true
  | .happend _ => true
  | _ => false

/-- The faults of each command (60_exceptions.md R159), without `F_ILLEGAL_CMD`, which is raised at decode, and `F_PAD_BLOCK`, which
is unreachable. -/
def mayRaise : Instr → List FaultCause
  | .modadd _ _ _ _ => [.modulus]
  | .modsub _ _ _ _ => [.modulus]
  | .modmul _ _ _ _ => [.modulus]
  | .montmul _ _ _ _ => [.modulus]
  | .modexp _ _ _ _ => [.modulus]
  | .modinv _ _ _ => [.modulus, .notInvertible]
  | .sqrt _ _ _ => [.modulus, .sqrtInternal]
  | .cinit => [.modulus, .range, .curveInit, .notInvertible]
  | .pchk _ => [.noCurve]
  | .prec _ _ => [.noCurve, .range, .sqrtInternal]
  | .padd _ _ _ => [.noCurve, .range, .notOnCurve, .notInvertible]
  | .pdbl _ _ => [.noCurve, .range, .notOnCurve, .notInvertible]
  | .smul _ _ _ => [.noCurve, .range, .notOnCurve, .notInvertible]
  | .keygen _ _ => [.noCurve, .rngRange, .notInvertible]
  | .hreset => []
  | .happend _ => [.hashLen]
  | .hdigest _ => []
  | .sign _ _ _ => [.noCurve, .range, .signRetry, .rngRange, .notInvertible]
  | .verify _ _ _ => [.noCurve, .notInvertible]

/-- The reset values of 10_state.md R27; no byte of `MSG` is written, so each is unspecified. -/
def resetImage (t : State) : Prop :=
  (∀ i, readScalar t i = 0) ∧ (∀ i, readPointReg t i = infinityImage) ∧
  t.params = { ca := 0, cb := 0, cp := 0, cn := 0, gx := 0, gy := 0, ginf := false } ∧
  statusWord t = 0 ∧ fcauseWord t = 0 ∧ t.finfo = 0 ∧ t.cmd = 0 ∧ t.waiting = false ∧
  t.digest.h = #v[0x6a09e667, 0xbb67ae85, 0x3c6ef372, 0xa54ff53a, 0x510e527f, 0x9b05688c, 0x1f83d9ab, 0x5be0cd19] ∧
  t.digest.hbuf = [] ∧ t.digest.hlen = 0 ∧ (∀ k, Memory.find t.msg k = none)


/-- The right side of the curve equation at an abscissa (42_curve.md R106). -/
def rhsAt (c : Curve) (x : Nat) : Nat := (x * x * x + c.a * x + c.b) % c.p

/-- The coordinates of an affine point are below `p` (42_curve.md R102). -/
abbrev inRange (c : Curve) (P : Point) : Prop := P.inf = true ∨ (P.x < c.p ∧ P.y < c.p)

/-- The curve congruence, on the coordinates as they stand (42_curve.md R101). -/
abbrev satisfies (c : Curve) (P : Point) : Prop := P.inf = true ∨ P.y * P.y % c.p = rhsAt c P.x

/-- A canonical point that satisfies the curve equation. -/
abbrev onCurve (c : Curve) (P : Point) : Prop := inRange c P ∧ satisfies c P

/-- `lam` is the slope of `add` for two affine points (42_curve.md R104): of the tangent when the abscissas agree, else of the
chord. -/
def isSlope (c : Curve) (P Q : Point) (lam : Nat) : Prop :=
  lam < c.p ∧
  (P.x = Q.x → (lam * (2 * P.y)) % c.p = (3 * P.x * P.x + c.a) % c.p) ∧
  (P.x ≠ Q.x → ((lam : Int) * ((Q.x : Int) - P.x) - ((Q.y : Int) - P.y)) % (c.p : Int) = 0)

/-- The third point of `add` from its slope (42_curve.md R104). -/
def thirdPoint (c : Curve) (P Q : Point) (lam : Nat) : Point :=
  let xr := (((lam : Int) * lam - P.x - Q.x) % (c.p : Int)).toNat
  { x := xr, y := (((lam : Int) * ((P.x : Int) - xr) - P.y) % (c.p : Int)).toNat, inf := false }

/-- A reset from `s` gives `t`: the values of 10_state.md R27, and the bytes of `MSG` unspecified anew: those of another count of resets,
which no earlier state had (70_reset_and_hazards.md R182, log entry 6). -/
def resetFrom (s t : State) : Prop :=
  resetImage t ∧ t.epoch = s.epoch + 1 ∧ ∀ k, readMsg t k = Config.freeMsgByte (s.epoch + 1) k

/-- Word `j` of a 256-bit value, word 0 the most significant (20_memory.md R34). -/
def wordAt (v : Wide) (j : BitVec 3) : Word := v.extractLsb' (224 - 32 * j.toNat) 32

/-- What each word of the window reads as (20_memory.md R33 to R36, 10_state.md R16, R17, R18). -/
def registerContent (s : State) : BusReg → Word
  | .cmd => s.cmd
  | .status => (0 : BitVec 29) ++ BitVec.ofBool s.curveOk ++ BitVec.ofBool s.fault ++ BitVec.ofBool s.t
  | .fcause => (0 : BitVec 24) ++ s.fcause
  | .finfo => s.finfo
  | .ctrl => 0
  | .ca => s.params.ca
  | .cb => s.params.cb
  | .ginf => (0 : BitVec 31) ++ BitVec.ofBool s.params.ginf
  | .cp j => wordAt s.params.cp j
  | .cn j => wordAt s.params.cn j
  | .gx j => wordAt s.params.gx j
  | .gy j => wordAt s.params.gy j
  | .h j => s.digest.h[j.toNat]'j.isLt
  | .hlenHi => BitVec.ofNat 32 (s.digest.hlen.toNat / 2 ^ 32)
  | .hlenLo => BitVec.ofNat 32 s.digest.hlen.toNat
  | .msg k => readMsg s (4 * k.toNat) ++ readMsg s (4 * k.toNat + 1) ++ readMsg s (4 * k.toNat + 2) ++ readMsg s (4 * k.toNat + 3)
  | .scalar i j => wordAt (s.scalars[i.toNat]'i.isLt) j
  | .pointX i j => wordAt (s.points[i.toNat]'i.isLt).x j
  | .pointY i j => wordAt (s.points[i.toNat]'i.isLt).y j
  | .pointInf i => (0 : BitVec 31) ++ BitVec.ofBool (s.points[i.toNat]'i.isLt).inf

/-- The registers that take a host write: `RW`, and `RW-L` while `CURVE_OK` = 0 (20_memory.md R33), but for `CMD`. -/
def writable (s : State) : BusReg → Prop
  | .cmd => False
  | .status => False
  | .fcause => False
  | .finfo => False
  | .ctrl => False
  | .ca => s.curveOk = false
  | .cb => s.curveOk = false
  | .ginf => s.curveOk = false
  | .cp _ => s.curveOk = false
  | .cn _ => s.curveOk = false
  | .gx _ => s.curveOk = false
  | .gy _ => s.curveOk = false
  | .h _ => False
  | .hlenHi => False
  | .hlenLo => False
  | .msg _ => True
  | .scalar _ _ => True
  | .pointX _ _ => True
  | .pointY _ _ => True
  | .pointInf _ => True

/-- `t` is `s` with the word `v` stored in `r`: it reads back (of `INF` and `GINF` only bit 0 is kept), and every other word of the
window reads as before (20_memory.md R34, R35, R36). -/
def stored (s t : State) (r : BusReg) (v : Word) : Prop :=
  readRegister t r = (if r = .ginf ∨ (∃ i, r = .pointInf i) then v &&& 1 else v) ∧
  (∀ r', r' ≠ r → readRegister t r' = readRegister s r')

/-- The round constants (43_sha256.md R121). -/
def kTable : List Word :=
  [0x428a2f98, 0x71374491, 0xb5c0fbcf, 0xe9b5dba5, 0x3956c25b, 0x59f111f1, 0x923f82a4, 0xab1c5ed5] ++
  [0xd807aa98, 0x12835b01, 0x243185be, 0x550c7dc3, 0x72be5d74, 0x80deb1fe, 0x9bdc06a7, 0xc19bf174] ++
  [0xe49b69c1, 0xefbe4786, 0x0fc19dc6, 0x240ca1cc, 0x2de92c6f, 0x4a7484aa, 0x5cb0a9dc, 0x76f988da] ++
  [0x983e5152, 0xa831c66d, 0xb00327c8, 0xbf597fc7, 0xc6e00bf3, 0xd5a79147, 0x06ca6351, 0x14292967] ++
  [0x27b70a85, 0x2e1b2138, 0x4d2c6dfc, 0x53380d13, 0x650a7354, 0x766a0abb, 0x81c2c92e, 0x92722c85] ++
  [0xa2bfe8a1, 0xa81a664b, 0xc24b8b70, 0xc76c51a3, 0xd192e819, 0xd6990624, 0xf40e3585, 0x106aa070] ++
  [0x19a4c116, 0x1e376c08, 0x2748774c, 0x34b0bcb5, 0x391c0cb3, 0x4ed8aa4a, 0x5b9cca4f, 0x682e6ff3] ++
  [0x748f82ee, 0x78a5636f, 0x84c87814, 0x8cc70208, 0x90befffa, 0xa4506ceb, 0xbef9a3f7, 0xc67178f2]

/-- The six word functions, bit by bit (43_sha256.md R122): bit `k` of `ROTR(x, n)` is bit `(k + n) mod 32` of `x`, and bit `k` of
`SHR(x, n)` is bit `k + n`, 0 above bit 31. -/
def wordFunctionBits (k : Nat) (x y z : Word) : Prop :=
  (ch x y z).getLsbD k = (if x.getLsbD k = true then y.getLsbD k else z.getLsbD k) ∧
  (maj x y z).getLsbD k = ((x.getLsbD k && y.getLsbD k) || (x.getLsbD k && z.getLsbD k) || (y.getLsbD k && z.getLsbD k)) ∧
  (bsig0 x).getLsbD k = ((x.getLsbD ((k + 2) % 32)).xor (x.getLsbD ((k + 13) % 32))).xor (x.getLsbD ((k + 22) % 32)) ∧
  (bsig1 x).getLsbD k = ((x.getLsbD ((k + 6) % 32)).xor (x.getLsbD ((k + 11) % 32))).xor (x.getLsbD ((k + 25) % 32)) ∧
  (ssig0 x).getLsbD k = ((x.getLsbD ((k + 7) % 32)).xor (x.getLsbD ((k + 18) % 32))).xor (x.getLsbD (k + 3)) ∧
  (ssig1 x).getLsbD k = ((x.getLsbD ((k + 17) % 32)).xor (x.getLsbD ((k + 19) % 32))).xor (x.getLsbD (k + 10))

/-- `v'` are the working words one round after `v`, with constant `k` and schedule word `w` (43_sha256.md R123). -/
def roundStep (k w : Word) (v v' : Working) : Prop :=
  v'.a = (v.h + bsig1 v.e + ch v.e v.f v.g + k + w) + (bsig0 v.a + maj v.a v.b v.c) ∧ v'.b = v.a ∧ v'.c = v.b ∧ v'.d = v.c ∧
  v'.e = v.d + (v.h + bsig1 v.e + ch v.e v.f v.g + k + w) ∧ v'.f = v.e ∧ v'.g = v.f ∧ v'.h = v.g

/-- Byte `i` of a 64-bit length, byte 0 the most significant (43_sha256.md R125). -/
def lengthByte (n i : Nat) : Byte := BitVec.ofNat 8 (n / 256 ^ (7 - i))

/-- SHA-256 of a whole message (43_sha256.md R125): pad the message, compress its blocks in order from `IV`, join the words. -/
def sha256 (m : List Byte) : Wide :=
  let padded := m ++ [0x80] ++ List.replicate ((119 - m.length % 64) % 64) 0 ++ (List.range 8).map (lengthByte (8 * m.length))
  let h := (List.range (padded.length / 64)).foldl (fun h q => compress h ((padded.drop (64 * q)).take 64))
    #v[0x6a09e667, 0xbb67ae85, 0x3c6ef372, 0xa54ff53a, 0x510e527f, 0x9b05688c, 0x1f83d9ab, 0x5be0cd19]
  h[0] ++ h[1] ++ h[2] ++ h[3] ++ h[4] ++ h[5] ++ h[6] ++ h[7]

/-- One byte taken by HAPPEND (43_sha256.md R126). -/
def absorb (d : DigestState) (v : Byte) : DigestState :=
  if d.hbuf.length + 1 = 64 then { h := compress d.h (d.hbuf ++ [v]), hbuf := [], hlen := d.hlen + 1 }
  else { h := d.h, hbuf := d.hbuf ++ [v], hlen := d.hlen + 1 }

/-- The port answers the draws `ks` in turn and is then `after` (10_state.md R24). -/
def drawsInTurn : RandomPort → List Nat → RandomPort → Prop
  | port, [], after => after = port
  | port, k :: ks, after => ∃ mid, draw port = .answered k mid ∧ drawsInTurn mid ks after

/-- A draw with which SIGN tries again (44_ecdsa.md R141): in range, and `r` = 0 (infinity counts as 0) or `s` = 0. -/
def retryDraw (c : Curve) (e d k : Nat) : Prop :=
  1 ≤ k ∧ k < c.n ∧ ∃ R, c.smul c.g k = .ok R ∧
    (R.inf = true ∨ R.x % c.n = 0 ∨ ∃ w, k * w % c.n = 1 ∧ w * (e + d * (R.x % c.n)) % c.n = 0)

/-- A draw with which SIGN ends with the signature `(r, sg)` (44_ecdsa.md R141). -/
def signingDraw (c : Curve) (e d k r sg : Nat) : Prop :=
  1 ≤ k ∧ k < c.n ∧ ∃ R w, c.smul c.g k = .ok R ∧ R.inf = false ∧ r = R.x % c.n ∧ r ≠ 0 ∧ k * w % c.n = 1 ∧
    sg = w * (e + d * r) % c.n ∧ sg ≠ 0

/-- The conditions of 44_ecdsa.md R142 under which VERIFY gives 1, with `e` the message representative. -/
def validSignature (c : Curve) (e r s : Nat) (Q : Point) : Prop :=
  onCurve c Q ∧ (∃ V, c.smul Q c.n = .ok V ∧ V.inf = true) ∧ 1 ≤ r ∧ r < c.n ∧ 1 ≤ s ∧ s < c.n ∧
  ∃ w A B Pt, s * w % c.n = 1 ∧ c.smul c.g (e * w % c.n) = .ok A ∧ c.smul Q (r * w % c.n) = .ok B ∧
    c.add A B = .ok Pt ∧ Pt.inf = false ∧ Pt.x % c.n = r

end Sys2Proof.Claims

section

open Sys2Proof Sys2Proof.Machine Sys2Proof.Claims

/-! ## Encoding -/

/-- 30_encoding.md R54, R58: decoding the word of a legal command gives the command back. -/
def Obligations.DecodeOfEncode : Prop :=
  ∀ i : Instr, i.wellFormed = true → decode (encode i) = .command i

/-- 30_encoding.md R54, R55: a word that decodes is the word of the command it decodes to, and that command is legal; so every word
is exactly one legal command or illegal. -/
def Obligations.EncodeOfDecode : Prop :=
  ∀ (w : Word) (i : Instr), decode w = .command i → encode i = w ∧ i.wellFormed = true

/-- 30_encoding.md R54: mask, match and constraint select exactly the legal words, one row each, and the decoded command is of the
row that selects. -/
def Obligations.TableSelectsExactlyLegalWords : Prop :=
  ∀ w : Word,
    ((∃ i, decode w = .command i) ↔ ∃ r ∈ opcodeTable, rowSelects r w = true) ∧
    (∀ r ∈ opcodeTable, ∀ r' ∈ opcodeTable, rowSelects r w = true → rowSelects r' w = true → r = r') ∧
    (∀ i, decode w = .command i → rowOf i ∈ opcodeTable ∧ rowSelects (rowOf i) w = true)

/-- 30_encoding.md R55, R58 and 95_test_vectors.md V80: words written out in the spec, legal and illegal. -/
def Obligations.DecodeOfWordsInSpec : Prop :=
  decode 0x01312001 = .command (.modadd 3 1 2 .n) ∧ decode 0x03312001 = .command (.modmul 3 1 2 .n) ∧
  decode 0x07A60000 = .command (.sqrt 10 6 .p) ∧ decode 0x10000000 = .command .cinit ∧
  decode 0x13201000 = .command (.padd 2 0 1) ∧ decode 0x15208000 = .command (.smul 2 0 8) ∧
  decode 0x16800000 = .command (.keygen 8 0) ∧ decode 0x21000100 = .command (.happend 256) ∧
  decode 0x30120000 = .command (.sign 1 2 0) ∧ decode 0x31110000 = .command (.verify 1 1 0) ∧
  decode 0x00000000 = .illegal .opcode ∧ decode 0xFFFFFFFF = .illegal .opcode ∧
  decode 0x01312002 = .illegal .unusedField ∧ decode 0x11080000 = .illegal .pointRegister ∧
  decode 0x21000101 = .illegal .length ∧ decode 0x30110000 = .illegal .sameDestination

/-! ## A step and the bus -/

/-- 30_encoding.md R50: a write to `CMD` outside the FAULT state runs the decoded command on the state in which `CMD` holds the word,
and the bus write completes when the command has ended; that of a command that waits for the random source stays outstanding. The
queue and the replies are the model's own (log entries 1, 2, 5). -/
def Obligations.StepRunsDecodedCommand : Prop :=
  ∀ (s : State) (w : Word) (i : Instr) (rest : List HostEvent),
    s.pending = .write 0x000 w :: rest → s.waiting = false → s.fault = false → decode w = .command i →
    step s = completeWith .done (exec i { s with pending := rest, cmd := w }) ∧
    (∀ t, exec i { s with pending := rest, cmd := w } = .next t →
      step s = .next (if t.waiting = true then t else { t with replies := .done :: t.replies }))

/-- 30_encoding.md R55, 60_exceptions.md R151, R152: an illegal word raises `F_ILLEGAL_CMD` with `FINFO` the word; it has no other
effect but that `CMD` holds it. The queue and
the replies are the model's own (log entries 1, 2). -/
def Obligations.IllegalWordFaults : Prop :=
  ∀ (s : State) (w : Word) (why : IllegalWord) (rest : List HostEvent),
    s.pending = .write 0x000 w :: rest → s.waiting = false → s.fault = false → decode w = .illegal why →
    step s = .next { s with pending := rest, cmd := w, fault := true, fcause := 0x01, finfo := w, replies := .done :: s.replies }

/-- 20_memory.md R31, R32, R33, R34, R35, R36, 10_state.md R16, R17, R18: what each word of the window reads as (`STATUS` its three
flags, `FCAUSE`, `FINFO`, `CMD`, `CTRL` 0, `H`, the halves of `HLEN`, and the words of every wide register); a read answers that word
or a bus error, in the FAULT state too, and changes nothing. The queue and the replies are the model's own (log entries 1, 2). -/
def Obligations.BusReadHasNoSideEffect : Prop :=
  (∀ (s : State) (r : BusReg), readRegister s r = registerContent s r) ∧
  (∀ (s : State) (off : Nat) (rest : List HostEvent), s.pending = .read off :: rest → s.waiting = false →
    ∃ r, step s = .next { s with pending := rest, replies := r :: s.replies } ∧
      (∀ reg, busRegister off = some reg → r = .data (registerContent s reg)) ∧
      (busRegister off = none → r = .busError))

/-- 20_memory.md R33, R34, R35: the offsets of the registers. -/
def Obligations.BusMapOffsets : Prop :=
  busRegister 0x000 = some .cmd ∧ busRegister 0x004 = some .status ∧ busRegister 0x008 = some .fcause ∧
  busRegister 0x00C = some .finfo ∧ busRegister 0x010 = some .ctrl ∧ busRegister 0x020 = some .ca ∧
  busRegister 0x024 = some .cb ∧ busRegister 0x028 = some .ginf ∧
  (∀ j : BitVec 3, busRegister (0x040 + 4 * j.toNat) = some (.cp j) ∧ busRegister (0x060 + 4 * j.toNat) = some (.cn j) ∧
    busRegister (0x080 + 4 * j.toNat) = some (.gx j) ∧ busRegister (0x0A0 + 4 * j.toNat) = some (.gy j) ∧
    busRegister (0x0C0 + 4 * j.toNat) = some (.h j)) ∧
  busRegister 0x0E0 = some .hlenHi ∧ busRegister 0x0E4 = some .hlenLo ∧
  (∀ k : BitVec 6, busRegister (0x100 + 4 * k.toNat) = some (.msg k)) ∧
  (∀ (i : SReg) (j : BitVec 3), busRegister (0x200 + 0x20 * i.toNat + 4 * j.toNat) = some (.scalar i j)) ∧
  (∀ (i : PReg) (j : BitVec 3), busRegister (0x400 + 0x80 * i.toNat + 4 * j.toNat) = some (.pointX i j) ∧
    busRegister (0x420 + 0x80 * i.toNat + 4 * j.toNat) = some (.pointY i j)) ∧
  (∀ i : PReg, busRegister (0x440 + 0x80 * i.toNat) = some (.pointInf i))

/-- 20_memory.md R31, R33, R35: exactly the unaligned, outside and reserved offsets name no register. -/
def Obligations.BusMapHoles : Prop :=
  ∀ off : Nat, busRegister off = none ↔
    (off % 4 ≠ 0 ∨ 0x800 ≤ off ∨ (0x014 ≤ off ∧ off < 0x020) ∨ (0x02C ≤ off ∧ off < 0x040) ∨
      (0x0E8 ≤ off ∧ off < 0x100) ∨ (0x400 ≤ off ∧ 0x44 ≤ off % 0x80))

/-- 10_state.md R15, 20_memory.md R31, R33: writes to a hole, to a read-only register, to a parameter register while `CURVE_OK` = 1,
and every transaction that is not 32 bits wide, are refused with a bus error and change nothing. The queue and
the replies are the model's own (log entries 1, 2). -/
def Obligations.RefusedTransactionsChangeNothing : Prop :=
  ∀ (s : State) (e : HostEvent) (rest : List HostEvent), s.pending = e :: rest → s.waiting = false →
    ((∃ width off, e = .oddRead width off) ∨ (∃ width off, e = .oddWrite width off) ∨
      (∃ off v, e = .write off v ∧ busRegister off = none) ∨
      (∃ off v r, e = .write off v ∧ busRegister off = some r ∧
        (r = .status ∨ r = .fcause ∨ r = .finfo ∨ (∃ j, r = .h j) ∨ r = .hlenHi ∨ r = .hlenLo)) ∨
      (∃ off v r, e = .write off v ∧ busRegister off = some r ∧ s.curveOk = true ∧
        (r = .ca ∨ r = .cb ∨ r = .ginf ∨ ∃ j, r = .cp j ∨ r = .cn j ∨ r = .gx j ∨ r = .gy j))) →
    step s = .next { s with pending := rest, replies := .busError :: s.replies }

/-- 20_memory.md R33, R34, R35, R36, R40: outside the FAULT state a write to a register that takes host writes completes, and the word
is stored: it reads back (only bit 0 of `INF` and `GINF` is kept) and every other word of the window reads as before; what the window
does not show is unchanged. The queue and the replies are the model's own (log entries 1, 2). -/
def Obligations.StoredWordReadsBack : Prop :=
  (∀ (s t : State) (r : BusReg) (v : Word), storeRegister s r v = some t → stored s t r v) ∧
  (∀ (s : State) (off : Nat) (v : Word) (r : BusReg) (rest : List HostEvent),
    s.pending = .write off v :: rest → s.waiting = false → s.fault = false → busRegister off = some r → writable s r →
    ∃ t, step s = .next t ∧ stored s t r v ∧ t.pending = rest ∧ t.replies = .done :: s.replies ∧
      t.waiting = false ∧ t.digest = s.digest ∧ t.port = s.port ∧ t.epoch = s.epoch)

/-- 20_memory.md R34: `V = word0 ‖ word1 ‖ ... ‖ word7`, and a write of word `j` replaces those 32 bits and no others. -/
def Obligations.WideRegisterWords : Prop :=
  (∀ v : Wide, v = laneOf v 0 ++ laneOf v 1 ++ laneOf v 2 ++ laneOf v 3 ++ laneOf v 4 ++ laneOf v 5 ++ laneOf v 6 ++ laneOf v 7) ∧
  (∀ (v : Wide) (j : BitVec 3) (w : Word), laneOf (withLane v j w) j = w ∧ ∀ j', j' ≠ j → laneOf (withLane v j w) j' = laneOf v j') ∧
  (∀ (v : Wide) (j : BitVec 3), laneOf v j = v.extractLsb' (224 - 32 * j.toNat) 32)

/-- 20_memory.md R36: message word `k` is `MSG[4k] ‖ MSG[4k+1] ‖ MSG[4k+2] ‖ MSG[4k+3]`; a write replaces those four bytes and no
others. -/
def Obligations.MessageWordPacking : Prop :=
  (∀ (s : State) (k : BitVec 6), readRegister s (.msg k) =
    readMsg s (4 * k.toNat) ++ readMsg s (4 * k.toNat + 1) ++ readMsg s (4 * k.toNat + 2) ++ readMsg s (4 * k.toNat + 3)) ∧
  (∀ (s : State) (k : BitVec 6) (v : Word), ∃ t, storeRegister s (.msg k) v = some t ∧
    readMsg t (4 * k.toNat) = v.extractLsb' 24 8 ∧ readMsg t (4 * k.toNat + 1) = v.extractLsb' 16 8 ∧
    readMsg t (4 * k.toNat + 2) = v.extractLsb' 8 8 ∧ readMsg t (4 * k.toNat + 3) = v.extractLsb' 0 8 ∧
    ∀ a, a / 4 ≠ k.toNat → readMsg t a = readMsg s a)

/-- 20_memory.md R44, 60_exceptions.md R154: in the FAULT state every allowed read still answers, every write but one to `CTRL` is
refused, a write to `CTRL` with bit 0 set resets the block and one with bit 0 clear does nothing. The queue and
the replies are the model's own (log entries 1, 2). -/
def Obligations.FaultStateIsFrozen : Prop :=
  ∀ (s : State) (rest : List HostEvent), s.fault = true → s.waiting = false →
    (∀ off, s.pending = .read off :: rest → step s = .next { s with pending := rest, replies := busRead s off :: s.replies }) ∧
    (∀ off v, s.pending = .write off v :: rest → off ≠ 0x010 →
      step s = .next { s with pending := rest, replies := .busError :: s.replies }) ∧
    (∀ v, s.pending = .write 0x010 v :: rest → v.getLsbD 0 = true →
      ∃ t, step s = .next t ∧ resetFrom s t ∧ t.pending = rest ∧ t.replies = .done :: s.replies) ∧
    (∀ v, s.pending = .write 0x010 v :: rest → v.getLsbD 0 = false →
      step s = .next { s with pending := rest, replies := .done :: s.replies })

/-! ## Reset -/

/-- 10_state.md R27: the state after reset. That a byte of `MSG`, unspecified in the rule, is the free value `Config.freeMsgByte` and is
not listed is the model's form (log entry 6), and that no command waits is too (log entry 5). -/
def Obligations.ResetStateValues : Prop := resetImage State.reset ∧ ∃ e, ∀ k, readMsg State.reset k = Config.freeMsgByte e k

/-- 70_reset_and_hazards.md R180, R181, R182: the reset input and a write to `CTRL` with bit 0 set reset the block from any state and
leave the random source and the host's list alone; a write with bit 0 clear does nothing. The bytes of `MSG` are then unspecified
anew, neither zero nor what they were (log entry 6). A command that waits for the random source is abandoned by the first reset to
come, without an answer, whatever transactions wait before it (log entry 5). The queue and the replies are the model's own (log
entries 1, 2). -/
def Obligations.ResetFromAnyState : Prop :=
  ∀ (s : State) (rest : List HostEvent),
    (s.pending = .hardReset :: rest →
      ∃ t, step s = .next t ∧ resetFrom s t ∧ t.pending = rest ∧ t.replies = s.replies ∧ t.port = s.port) ∧
    (∀ v, s.pending = .write 0x010 v :: rest → s.waiting = false → v.getLsbD 0 = true →
      ∃ t, step s = .next t ∧ resetFrom s t ∧ t.pending = rest ∧ t.replies = .done :: s.replies ∧ t.port = s.port) ∧
    (∀ v, s.pending = .write 0x010 v :: rest → s.waiting = false → v.getLsbD 0 = false →
      step s = .next { s with pending := rest, replies := .done :: s.replies }) ∧
    (∀ before, s.waiting = true → .hardReset ∉ before → s.pending = before ++ .hardReset :: rest →
      ∃ t, step s = .next t ∧ resetFrom s t ∧ t.pending = before ++ rest ∧ t.replies = s.replies ∧ t.port = s.port)

/-! ## Invariants and whole-machine rules -/

/-- The invariant of the block holds after reset. -/
def Obligations.InvariantAtReset : Prop := Safety.Inv State.reset

/-- 10_state.md R15, R17, R21, 42_curve.md R100, 60_exceptions.md R154: every step keeps the invariant: `MSG` canonical,
`length(HBUF) = HLEN mod 64`, the fault record, `CURVE_OK` = 1 only over parameters that CINIT accepts, and a command waits only
with `CURVE_OK` = 1 and outside the FAULT state. -/
def Obligations.StepKeepsInvariant : Prop :=
  ∀ s t : State, Safety.Inv s → step s = .next t → Safety.Inv t

/-- 10_state.md R15: once the curve is constructed the parameter registers never change, but by a reset. -/
def Obligations.ConstructedParametersAreImmutable : Prop :=
  ∀ s t : State, s.curveOk = true → step s = .next t →
    (t.params = s.params ∧ t.curveOk = true) ∨ resetImage t

/-- 30_encoding.md R50, 70_reset_and_hazards.md R186: every command ends in a next state, but that KEYGEN and SIGN wait, with nothing
written, when the random source never answers; with no reset to come the block then hangs, which is the model's fault `portSilent`
(log entry 5). -/
def Obligations.EveryCommandEnds : Prop :=
  (∀ (i : Instr) (s : State), s.waiting = false →
    ∃ t, exec i s = .next t ∧
      (t.waiting = false ∨
        (draws i = true ∧ .silent ∈ s.port.answers ∧ t = { s with waiting := true, port := t.port }))) ∧
  (∀ s : State, s.waiting = true → .hardReset ∉ s.pending → step s = .fault .portSilent)

/-- 60_exceptions.md R152: faults are precise: a command that faults writes the fault record and nothing else; only draws already made
stay spent. -/
def Obligations.FaultsArePrecise : Prop :=
  ∀ (i : Instr) (s t : State), s.fault = false → exec i s = .next t → t.fault = true →
    ∃ c, t = { s with fault := true, fcause := faultCode c, finfo := s.cmd, port := t.port } ∧
      (draws i = false → t.port = s.port)

/-- 60_exceptions.md R151: the codes. -/
def Obligations.FaultCodes : Prop :=
  faultCode .illegalCmd = 0x01 ∧ faultCode .noCurve = 0x02 ∧ faultCode .modulus = 0x03 ∧ faultCode .range = 0x04 ∧
  faultCode .notOnCurve = 0x05 ∧ faultCode .curveInit = 0x06 ∧ faultCode .notInvertible = 0x07 ∧ faultCode .sqrtInternal = 0x08 ∧
  faultCode .padBlock = 0x09 ∧ faultCode .hashLen = 0x0A ∧ faultCode .rngRange = 0x0B ∧ faultCode .signRetry = 0x0C

/-- 60_exceptions.md R159: a command raises only the faults of its list, where `CURVE_OK` vouches for the parameters. -/
def Obligations.FaultsPerCommand : Prop :=
  ∀ (i : Instr) (s t : State), Safety.curveOkConstructed s → s.fault = false → exec i s = .next t → t.fault = true →
    ∃ c ∈ mayRaise i, t.fcause = faultCode c

/-- 10_state.md R19: only PCHK, PREC, SQRT and VERIFY write `T`, a command that faults leaves it unchanged, and no command's behaviour
depends on it. -/
def Obligations.OnlyFourCommandsTouchT : Prop :=
  (∀ (i : Instr) (s t : State), exec i s = .next t → (writesT i = false ∨ (s.fault = false ∧ t.fault = true)) → t.t = s.t) ∧
  (∀ (i : Instr) (s t : State) (b : Bool), exec i s = .next t →
    ∃ t', exec i { s with t := b } = .next t' ∧ { t' with t := t.t } = t ∧
      (writesT i = true → s.fault = false → t.fault = false → t'.t = t.t))

/-- 30_encoding.md R54, R56 and 10_state.md R10: the FRAME of every command: only its own destination registers change. -/
def Obligations.OnlyDestinationRegistersChange : Prop :=
  ∀ (i : Instr) (s t : State), exec i s = .next t →
    (∀ j, j ∉ scalarDests i → readScalar t j = readScalar s j) ∧
    (∀ j, j ∉ pointDests i → readPointReg t j = readPointReg s j)

/-- 10_state.md R15, R21, R24, 20_memory.md R45, 60_exceptions.md R152: the FRAME of every command outside the register files: no
command writes a parameter register, `CMD` or a byte of `MSG`; only CINIT sets `CURVE_OK` and none clears it; only HRESET and HAPPEND
change the DigestState; only KEYGEN and SIGN draw and may wait; outside a fault the fault record is unchanged. -/
def Obligations.CommandFrameOutsideRegisters : Prop :=
  ∀ (i : Instr) (s t : State), exec i s = .next t →
    t.params = s.params ∧ t.cmd = s.cmd ∧ t.msg = s.msg ∧ t.epoch = s.epoch ∧ (∀ a, readMsg t a = readMsg s a) ∧
    t.pending = s.pending ∧ t.replies = s.replies ∧
    (t.curveOk = s.curveOk ∨ (i = .cinit ∧ t.curveOk = true)) ∧
    (writesDigest i = false → t.digest = s.digest) ∧ (draws i = false → t.port = s.port ∧ t.waiting = s.waiting) ∧
    ((t.fault = s.fault ∧ t.fcause = s.fcause ∧ t.finfo = s.finfo) ∨ (t.fault = true ∧ t.finfo = s.cmd))

/-- 60_exceptions.md R158: after a negative outcome of SQRT, PREC, PCHK or VERIFY the fault record and every register are unchanged. -/
def Obligations.NegativeOutcomesWriteOnlyT : Prop :=
  ∀ (i : Instr) (s t : State), writesT i = true → s.fault = false → exec i s = .next t → t.fault = false → t.t = false →
    t = { s with t := false }

/-- 10_state.md R13: a command ignores the `x` and `y` fields of a point register whose `inf` is 1. -/
def Obligations.InfinityCoordinatesAreIgnored : Prop :=
  ∀ (s t : State) (a pd p1 p2 : PReg) (r1 r2 : SReg) (x y : Wide) (i : Instr),
    (readPointReg s a).inf = true →
    (i = .pchk p1 ∨ i = .padd pd p1 p2 ∨ i = .pdbl pd p1 ∨ i = .smul pd p1 r1 ∨ i = .verify r1 r2 p1) →
    s.fault = false → exec i s = .next t →
    ∃ t', exec i (writePointReg s a { x := x, y := y, inf := true }) = .next t' ∧
      t'.t = t.t ∧ t'.fault = t.fault ∧ t'.fcause = t.fcause ∧
      (t.fault = false → ∀ d ∈ pointDests i, readPointReg t' d = readPointReg t d)

/-! ## Field arithmetic -/

/-- 40_field_arithmetic.md R72, the operands being the unsigned register values. -/
def Obligations.ModaddResult : Prop :=
  ∀ (s : State) (rd rs1 rs2 : SReg) (sel : ModSel),
    encode (.modadd rd rs1 rs2 sel) = wordOf 0x01 rd rs1 rs2 (mselImm sel) ∧
    scalar s rs1 = (s.scalars[rs1.toNat]'rs1.isLt).toNat ∧ scalar s rs2 = (s.scalars[rs2.toNat]'rs2.isLt).toNat ∧
    (modulus s sel < 2 → exec (.modadd rd rs1 rs2 sel) s = .next (faultState 0x03 s)) ∧
    (2 ≤ modulus s sel → exec (.modadd rd rs1 rs2 sel) s =
      .next (withScalar s rd ((scalar s rs1 + scalar s rs2) % modulus s sel)))

/-- 40_field_arithmetic.md R73. -/
def Obligations.ModsubResult : Prop :=
  ∀ (s : State) (rd rs1 rs2 : SReg) (sel : ModSel),
    encode (.modsub rd rs1 rs2 sel) = wordOf 0x02 rd rs1 rs2 (mselImm sel) ∧
    (modulus s sel < 2 → exec (.modsub rd rs1 rs2 sel) s = .next (faultState 0x03 s)) ∧
    (2 ≤ modulus s sel → ∃ v, v < modulus s sel ∧ (modulus s sel : Int) ∣ ((scalar s rs1 : Int) - scalar s rs2 - v) ∧
      exec (.modsub rd rs1 rs2 sel) s = .next (withScalar s rd v))

/-- 40_field_arithmetic.md R74. -/
def Obligations.ModmulResult : Prop :=
  ∀ (s : State) (rd rs1 rs2 : SReg) (sel : ModSel),
    encode (.modmul rd rs1 rs2 sel) = wordOf 0x03 rd rs1 rs2 (mselImm sel) ∧
    (modulus s sel < 2 → exec (.modmul rd rs1 rs2 sel) s = .next (faultState 0x03 s)) ∧
    (2 ≤ modulus s sel → exec (.modmul rd rs1 rs2 sel) s =
      .next (withScalar s rd (scalar s rs1 * scalar s rs2 % modulus s sel)))

/-- 40_field_arithmetic.md R75: `u` is the inverse of the radix. -/
def Obligations.MontmulResult : Prop :=
  ∀ (s : State) (rd rs1 rs2 : SReg) (sel : ModSel),
    encode (.montmul rd rs1 rs2 sel) = wordOf 0x04 rd rs1 rs2 (mselImm sel) ∧
    (modulus s sel < 2 ∨ modulus s sel % 2 = 0 → exec (.montmul rd rs1 rs2 sel) s = .next (faultState 0x03 s)) ∧
    (2 ≤ modulus s sel → modulus s sel % 2 = 1 → ∃ u, 1 ≤ u ∧ u < modulus s sel ∧ 2 ^ 256 * u % modulus s sel = 1 ∧
      exec (.montmul rd rs1 rs2 sel) s = .next (withScalar s rd (scalar s rs1 * scalar s rs2 * u % modulus s sel)))

/-- 40_field_arithmetic.md R79: a Montgomery product followed by one with `R² mod m` is MODMUL, and a Montgomery product with
`R mod m` reduces the other operand. -/
def Obligations.MontgomeryRelations : Prop :=
  ∀ (s t : State) (rd rs1 rs2 rr : SReg) (sel : ModSel), 3 ≤ modulus s sel → modulus s sel % 2 = 1 →
    (rr ≠ rd → scalar s rr = 2 ^ 512 % modulus s sel → exec (.montmul rd rs1 rs2 sel) s = .next t →
      exec (.montmul rd rd rr sel) t = exec (.modmul rd rs1 rs2 sel) s) ∧
    (scalar s rs2 = 2 ^ 256 % modulus s sel →
      exec (.montmul rd rs1 rs2 sel) s = .next (withScalar s rd (scalar s rs1 % modulus s sel)))

/-- 40_field_arithmetic.md R76, R78. -/
def Obligations.ModexpResult : Prop :=
  ∀ (s : State) (rd rs1 rs2 : SReg) (sel : ModSel),
    encode (.modexp rd rs1 rs2 sel) = wordOf 0x05 rd rs1 rs2 (mselImm sel) ∧
    (modulus s sel < 2 → exec (.modexp rd rs1 rs2 sel) s = .next (faultState 0x03 s)) ∧
    (2 ≤ modulus s sel → exec (.modexp rd rs1 rs2 sel) s =
      .next (withScalar s rd (scalar s rs1 ^ scalar s rs2 % modulus s sel)))

/-- 40_field_arithmetic.md R77, R78. -/
def Obligations.ModinvResult : Prop :=
  ∀ (s : State) (rd rs1 : SReg) (sel : ModSel),
    encode (.modinv rd rs1 sel) = wordOf 0x06 rd rs1 0 (mselImm sel) ∧
    (modulus s sel < 2 → exec (.modinv rd rs1 sel) s = .next (faultState 0x03 s)) ∧
    (2 ≤ modulus s sel → Nat.gcd (scalar s rs1 % modulus s sel) (modulus s sel) ≠ 1 →
      exec (.modinv rd rs1 sel) s = .next (faultState 0x07 s)) ∧
    (2 ≤ modulus s sel → Nat.gcd (scalar s rs1 % modulus s sel) (modulus s sel) = 1 →
      ∃ u, 1 ≤ u ∧ u ≤ modulus s sel - 1 ∧ scalar s rs1 * u % modulus s sel = 1 ∧
        (∀ u', 1 ≤ u' → u' ≤ modulus s sel - 1 → scalar s rs1 * u' % modulus s sel = 1 → u' = u) ∧
        exec (.modinv rd rs1 sel) s = .next (withScalar s rd u))

/-! ## Square root -/

/-- 41_sqrt.md R91, R92: the modulus check; for any odd modulus of at least 3, an operand whose Legendre power is not 1 gives `T` = 0 and nothing else;
with a modulus that is 3 modulo 4 and a Legendre power of 1 the root is the closed form. -/
def Obligations.SqrtClosedFormAndNoRoot : Prop :=
  ∀ (s : State) (rd rs1 : SReg) (sel : ModSel),
    encode (.sqrt rd rs1 sel) = wordOf 0x07 rd rs1 0 (mselImm sel) ∧
    (modulus s sel < 3 ∨ modulus s sel % 2 = 0 → exec (.sqrt rd rs1 sel) s = .next (faultState 0x03 s)) ∧
    (3 ≤ modulus s sel → modulus s sel % 2 = 1 → scalar s rs1 ^ ((modulus s sel - 1) / 2) % modulus s sel ≠ 1 →
      exec (.sqrt rd rs1 sel) s = .next { s with t := false }) ∧
    (3 ≤ modulus s sel → modulus s sel % 4 = 3 → scalar s rs1 ^ ((modulus s sel - 1) / 2) % modulus s sel = 1 →
      exec (.sqrt rd rs1 sel) s =
        .next { withScalar s rd (scalar s rs1 ^ ((modulus s sel + 1) / 4) % modulus s sel) with t := true })

/-- 41_sqrt.md R93: for an odd prime modulus SQRT gives `T` = 1 exactly for the operands whose Legendre symbol is 1, and then the
destination's square is the operand modulo `p`; it never faults. -/
def Obligations.SqrtIsRootForOddPrimes : Prop :=
  ∀ (s : State) (rd rs1 : SReg) (sel : ModSel), Nat.Prime (modulus s sel) → modulus s sel ≠ 2 →
    (scalar s rs1 ^ ((modulus s sel - 1) / 2) % modulus s sel = 1 →
      ∃ v, v < modulus s sel ∧ v * v % modulus s sel = scalar s rs1 % modulus s sel ∧
        exec (.sqrt rd rs1 sel) s = .next { withScalar s rd v with t := true }) ∧
    (scalar s rs1 ^ ((modulus s sel - 1) / 2) % modulus s sel ≠ 1 →
      exec (.sqrt rd rs1 sel) s = .next { s with t := false })

/-! ## Curve -/

/-- 42_curve.md R100: every curve and signature command but CINIT faults while `CURVE_OK` = 0, and nothing is drawn. -/
def Obligations.CurveCommandsNeedCurve : Prop :=
  ∀ (s : State) (i : Instr), s.curveOk = false →
    ((∃ a, i = .pchk a) ∨ (∃ d x, i = .prec d x) ∨ (∃ d a b, i = .padd d a b) ∨ (∃ d a, i = .pdbl d a) ∨
      (∃ d a k, i = .smul d a k) ∨ (∃ d q, i = .keygen d q) ∨ (∃ r u d, i = .sign r u d) ∨ (∃ r u q, i = .verify r u q)) →
    exec i s = .next (faultState 0x02 s)

/-- 42_curve.md R107: the checks of CINIT in their order, what it writes, that the scalar multiplication fails only for want of an
inverse and only on a modulus that is no prime, and that on a constructed curve CINIT changes nothing. -/
def Obligations.CinitChecksInOrder : Prop :=
  ∀ s : State, ∀ c : Curve, c = curveOf s.params →
    encode .cinit = 0x10000000 ∧
    (c.p < 3 ∨ c.p % 2 = 0 → exec .cinit s = .next (faultState 0x03 s)) ∧
    (3 ≤ c.p → c.p % 2 = 1 → c.n < 2 → exec .cinit s = .next (faultState 0x03 s)) ∧
    (3 ≤ c.p → c.p % 2 = 1 → 2 ≤ c.n → ¬ inRange c c.g → exec .cinit s = .next (faultState 0x04 s)) ∧
    (3 ≤ c.p → c.p % 2 = 1 → 2 ≤ c.n → inRange c c.g → ¬ satisfies c c.g →
      exec .cinit s = .next (faultState 0x06 s)) ∧
    (3 ≤ c.p → c.p % 2 = 1 → 2 ≤ c.n → onCurve c c.g →
      (∀ V, c.smul c.g c.n = .ok V → V.inf = true → exec .cinit s = .next { s with curveOk := true }) ∧
      (∀ V, c.smul c.g c.n = .ok V → V.inf = false → exec .cinit s = .next (faultState 0x06 s)) ∧
      (∀ e, c.smul c.g c.n = .error e → ¬ Nat.Prime c.p ∧ exec .cinit s = .next (faultState 0x07 s))) ∧
    (Safety.curveOkConstructed s → s.curveOk = true → exec .cinit s = .next s)

/-- 42_curve.md R101, R108: PCHK evaluates the congruence on the coordinates as they stand, with the curve and the point that the
registers hold (10_state.md R13, R14). -/
def Obligations.PchkResult : Prop :=
  ∀ (s : State) (a : PReg) (c : Curve), c = curveOf s.params →
    encode (.pchk a) = wordOf 0x11 0 (pointField a) 0 0 ∧
    c.a = s.params.ca.toNat ∧ c.b = s.params.cb.toNat ∧ c.p = s.params.cp.toNat ∧ c.n = s.params.cn.toNat ∧
    c.g.x = s.params.gx.toNat ∧ c.g.y = s.params.gy.toNat ∧ c.g.inf = s.params.ginf ∧
    (point s a).x = (s.points[a.toNat]'a.isLt).x.toNat ∧ (point s a).y = (s.points[a.toNat]'a.isLt).y.toNat ∧
    (point s a).inf = (s.points[a.toNat]'a.isLt).inf ∧
    (s.curveOk = false → exec (.pchk a) s = .next (faultState 0x02 s)) ∧
    (s.curveOk = true → exec (.pchk a) s = .next { s with t := decide ((point s a).inf = true ∨
      (point s a).y * (point s a).y % c.p =
        ((point s a).x * (point s a).x * (point s a).x + c.a * (point s a).x + c.b) % c.p) })

/-- 42_curve.md R106, R109, R114: an abscissa of `p` or more faults; on a prime modulus PREC writes a
point of the curve with the given abscissa, or gives `T` = 0. -/
def Obligations.PrecRecoversPoint : Prop :=
  ∀ (s : State) (pd : PReg) (rs1 : SReg) (c : Curve), c = curveOf s.params → s.curveOk = true →
    (c.p ≤ scalar s rs1 → exec (.prec pd rs1) s = .next (faultState 0x04 s)) ∧
    (Nat.Prime c.p → c.p ≠ 2 → scalar s rs1 < c.p → rhsAt c (scalar s rs1) ^ ((c.p - 1) / 2) % c.p = 1 →
      ∃ y, y < c.p ∧ onCurve c { x := scalar s rs1, y := y, inf := false } ∧
        exec (.prec pd rs1) s = .next { withPoint s pd (affine (scalar s rs1) y) with t := true }) ∧
    (Nat.Prime c.p → c.p ≠ 2 → scalar s rs1 < c.p → rhsAt c (scalar s rs1) ^ ((c.p - 1) / 2) % c.p ≠ 1 →
      exec (.prec pd rs1) s = .next { s with t := false })

/-- 42_curve.md R102, R104, R110: the operand checks of PADD, the range check first. -/
def Obligations.PaddOperandFaults : Prop :=
  ∀ (s : State) (pd a b : PReg) (c : Curve), c = curveOf s.params → s.curveOk = true →
    (¬(inRange c (point s a) ∧ inRange c (point s b)) →
      exec (.padd pd a b) s = .next (faultState 0x04 s)) ∧
    (inRange c (point s a) → inRange c (point s b) →
      ¬(satisfies c (point s a) ∧ satisfies c (point s b)) →
      exec (.padd pd a b) s = .next (faultState 0x05 s))

/-- 42_curve.md R104, R110, R114: on a prime modulus PADD of two points of the curve is the group law, in every case. -/
def Obligations.PaddGroupLaw : Prop :=
  ∀ (s : State) (pd a b : PReg) (c : Curve) (P Q : Point), c = curveOf s.params → P = point s a → Q = point s b →
    s.curveOk = true → Nat.Prime c.p → c.p ≠ 2 → onCurve c P → onCurve c Q →
    (P.inf = true → exec (.padd pd a b) s = .next (withPoint s pd (imageOf Q))) ∧
    (P.inf = false → Q.inf = true → exec (.padd pd a b) s = .next (withPoint s pd (imageOf P))) ∧
    (P.inf = false → Q.inf = false → P.x = Q.x → (P.y + Q.y) % c.p = 0 →
      exec (.padd pd a b) s = .next (withPoint s pd infinityImage)) ∧
    (P.inf = false → Q.inf = false → ¬(P.x = Q.x ∧ (P.y + Q.y) % c.p = 0) →
      ∃ lam, isSlope c P Q lam ∧ exec (.padd pd a b) s = .next (withPoint s pd (imageOf (thirdPoint c P Q lam))))

/-- 42_curve.md R111: PDBL is exactly PADD with both sources the same. -/
def Obligations.PdblIsPaddOfSamePoint : Prop :=
  ∀ (s : State) (pd a : PReg), encode (.pdbl pd a) = wordOf 0x14 (pointField pd) (pointField a) 0 0 ∧
    exec (.pdbl pd a) s = exec (.padd pd a a) s

/-- 42_curve.md R104, R111: on a prime modulus PDBL of a point of the curve is the tangent construction; a point with `y` = 0 and
infinity double to infinity. -/
def Obligations.PdblTangentLaw : Prop :=
  ∀ (s : State) (pd a : PReg) (c : Curve) (P : Point), c = curveOf s.params → P = point s a →
    s.curveOk = true → Nat.Prime c.p → c.p ≠ 2 → onCurve c P →
    (P.inf = true ∨ P.y = 0 → exec (.pdbl pd a) s = .next (withPoint s pd infinityImage)) ∧
    (P.inf = false → P.y ≠ 0 → ∃ lam, lam < c.p ∧ lam * (2 * P.y) % c.p = (3 * P.x * P.x + c.a) % c.p ∧
      exec (.pdbl pd a) s = .next (withPoint s pd (imageOf (thirdPoint c P P lam))))

/-- 60_exceptions.md R159, 93_implementation_defined.md G5 (d): the sum of two canonical points of the curve is a canonical point of
the curve, whatever the modulus; on an odd prime modulus there is always a sum. -/
def Obligations.AddStaysOnCurve : Prop :=
  ∀ (c : Curve) (P Q : Point), onCurve c P → onCurve c Q →
    (∀ R, c.add P Q = .ok R → onCurve c R) ∧
    (Nat.Prime c.p → c.p ≠ 2 → ∃ R, c.add P Q = .ok R)

/-- 42_curve.md R105, R112: scalar 0 gives infinity and does not look at the point; for every other scalar a point that is not canonical
faults with `F_RANGE` and a canonical one off the curve with `F_NOT_ON_CURVE`; on a prime modulus scalar 1 gives a point of the curve
back. -/
def Obligations.SmulByZeroAndOne : Prop :=
  ∀ (s : State) (pd a : PReg) (rs2 : SReg) (c : Curve), c = curveOf s.params → s.curveOk = true →
    (scalar s rs2 = 0 → exec (.smul pd a rs2) s = .next (withPoint s pd infinityImage)) ∧
    (1 ≤ scalar s rs2 → ¬ inRange c (point s a) → exec (.smul pd a rs2) s = .next (faultState 0x04 s)) ∧
    (1 ≤ scalar s rs2 → inRange c (point s a) → ¬ satisfies c (point s a) →
      exec (.smul pd a rs2) s = .next (faultState 0x05 s)) ∧
    (Nat.Prime c.p → c.p ≠ 2 → onCurve c (point s a) → scalar s rs2 = 1 →
      exec (.smul pd a rs2) s = .next (withPoint s pd (imageOf (point s a))))

/-- 42_curve.md R105, R112: on a prime modulus SMUL of a point of the curve ends with a point of the curve, for every scalar. -/
def Obligations.SmulCompletesOnCurve : Prop :=
  ∀ (s : State) (pd a : PReg) (rs2 : SReg) (c : Curve), c = curveOf s.params → s.curveOk = true →
    Nat.Prime c.p → c.p ≠ 2 → onCurve c (point s a) →
    ∃ V, c.smul (point s a) (scalar s rs2) = .ok V ∧ onCurve c V ∧
      exec (.smul pd a rs2) s = .next (withPoint s pd (imageOf V))

/-- 42_curve.md R114: on a prime modulus scalar multiplication is additive in the scalar; equality is that of R114, which ignores
the coordinates of an infinity. -/
def Obligations.SmulAdditiveInScalar : Prop :=
  ∀ (c : Curve) (P : Point) (k l : Nat), Nat.Prime c.p → c.p ≠ 2 → onCurve c P →
    ∃ A B C D, c.smul P k = .ok A ∧ c.smul P l = .ok B ∧ c.smul P (k + l) = .ok C ∧ c.add A B = .ok D ∧ imageOf C = imageOf D

/-- 42_curve.md R113, 10_state.md R24: KEYGEN with a draw in range writes the draw and its multiple of the generator; a draw outside
`[1, n - 1]` faults; exactly one draw is spent either way; a draw that is never answered leaves KEYGEN waiting with nothing written
(70_reset_and_hazards.md R186, log entry 5). The queue of answers and the counter of draws are the model's (log entry 4). -/
def Obligations.KeygenResult : Prop :=
  ∀ (s : State) (rd : SReg) (pd : PReg) (c : Curve), c = curveOf s.params → s.curveOk = true →
    (∀ k rest, s.port.answers = .value k :: rest →
      draw s.port = .answered k.toNat { answers := rest, drawn := s.port.drawn + 1 }) ∧
    (s.port.answers = [] →
      draw s.port = .answered (Config.freeDraw s.port.drawn).toNat { answers := [], drawn := s.port.drawn + 1 }) ∧
    (∀ d after, draw s.port = .answered d after →
      after.drawn = s.port.drawn + 1 ∧
      (Safety.curveOkConstructed s → Nat.Prime c.p → 1 ≤ d → d < c.n →
        ∃ Q, c.smul c.g d = .ok Q ∧ onCurve c Q ∧
          exec (.keygen rd pd) s = .next { withPoint (withScalar s rd d) pd (imageOf Q) with port := after }) ∧
      (d = 0 ∨ c.n ≤ d → exec (.keygen rd pd) s = .next (faultState 0x0B { s with port := after }))) ∧
    (∀ rest, s.port.answers = .silent :: rest →
      exec (.keygen rd pd) s = .next { s with waiting := true, port := { s.port with answers := rest } })

/-! ## Digest -/

/-- 43_sha256.md R124: HRESET. -/
def Obligations.HresetResult : Prop :=
  encode .hreset = 0x20000000 ∧
  ∀ s : State, exec .hreset s = .next { s with digest := {
    h := #v[0x6a09e667, 0xbb67ae85, 0x3c6ef372, 0xa54ff53a, 0x510e527f, 0x9b05688c, 0x1f83d9ab, 0x5be0cd19],
    hbuf := [], hlen := 0 } }

/-- 43_sha256.md R126: HAPPEND takes the first `len` bytes of `MSG` one by one, or faults before taking any; a `len` above 256 is an
illegal word. -/
def Obligations.HappendResult : Prop :=
  ∀ (s : State) (len : BitVec 12),
    encode (.happend len) = wordOf 0x21 0 0 0 len ∧
    (256 < len.toNat → decode (wordOf 0x21 0 0 0 len) = .illegal .length) ∧
    (len.toNat ≤ 256 → s.digest.hlen.toNat + len.toNat ≤ 2 ^ 61 - 1 →
      exec (.happend len) s = .next { s with digest := ((List.range len.toNat).map (readMsg s)).foldl absorb s.digest }) ∧
    (len.toNat ≤ 256 → 2 ^ 61 - 1 < s.digest.hlen.toNat + len.toNat → exec (.happend len) s = .next (faultState 0x0A s))

/-- 43_sha256.md R121, R122, R123: the word functions bit by bit, the constants, the sixteen big-endian words of a block and the
recurrence for the other forty-eight, the sixty-four rounds from the words of `Hin`, and the final addition. -/
def Obligations.MessageSchedule : Prop :=
  (∀ (k : Nat) (x y z : Word), k < 32 → wordFunctionBits k x y z) ∧ roundConstants = kTable ∧
  (∀ (block : List Byte), block.length = 64 →
    (extendSchedule 48 (blockWords block)).length = 64 ∧
    (∀ t, t < 16 → (extendSchedule 48 (blockWords block)).getD t 0 =
      block.getD (4 * t) 0 ++ block.getD (4 * t + 1) 0 ++ block.getD (4 * t + 2) 0 ++ block.getD (4 * t + 3) 0) ∧
    (∀ t, 16 ≤ t → t < 64 → (extendSchedule 48 (blockWords block)).getD t 0 =
      ssig1 ((extendSchedule 48 (blockWords block)).getD (t - 2) 0) + (extendSchedule 48 (blockWords block)).getD (t - 7) 0 +
      ssig0 ((extendSchedule 48 (blockWords block)).getD (t - 15) 0) + (extendSchedule 48 (blockWords block)).getD (t - 16) 0) ∧
    (∀ hin : Vector Word 8, ∃ v : Nat → Working,
      v 0 = { a := hin[0], b := hin[1], c := hin[2], d := hin[3], e := hin[4], f := hin[5], g := hin[6], h := hin[7] } ∧
      (∀ t, t < 64 → roundStep (kTable.getD t 0) ((extendSchedule 48 (blockWords block)).getD t 0) (v t) (v (t + 1))) ∧
      compress hin block = #v[hin[0] + (v 64).a, hin[1] + (v 64).b, hin[2] + (v 64).c, hin[3] + (v 64).d,
        hin[4] + (v 64).e, hin[5] + (v 64).f, hin[6] + (v 64).g, hin[7] + (v 64).h]))

/-- 43_sha256.md R120, R125: however a message was appended, the digest value is SHA-256 of the whole message. -/
def Obligations.DigestIsSha256OfMessage : Prop :=
  ∀ m : List Byte, m.length ≤ 2 ^ 61 - 1 → digestValue (appendBytes .initial m) = .ok (sha256 m)

/-- 43_sha256.md R125, R127: HDIGEST always completes, writes the digest value to `S[rd]`, changes nothing else, and is idempotent. -/
def Obligations.HdigestResult : Prop :=
  ∀ (s : State) (rd : SReg), encode (.hdigest rd) = wordOf 0x22 rd 0 0 0 ∧
    ∃ v, digestValue s.digest = .ok v ∧
      exec (.hdigest rd) s = .next (withScalar s rd v.toNat) ∧
      exec (.hdigest rd) (withScalar s rd v.toNat) = .next (withScalar s rd v.toNat)

/-! ## Signature -/

/-- 44_ecdsa.md R141: a private key outside `[1, n - 1]` faults before any draw, and a first draw outside it faults and is spent;
SIGN whose first draw gives a signature writes `r = R.x mod n` and `s = k^-1 · (e + d·r) mod n` and spends one draw. The queue of
answers and the counter of draws are the model's (log entry 4). -/
def Obligations.SignOnFirstDraw : Prop :=
  ∀ (s : State) (rdR rdS rsD : SReg) (c : Curve) (d : Nat), rdR ≠ rdS → c = curveOf s.params → s.curveOk = true →
    d = scalar s rsD →
    (d = 0 ∨ c.n ≤ d → exec (.sign rdR rdS rsD) s = .next (faultState 0x04 s)) ∧
    (∀ k after, 1 ≤ d → d < c.n → draw s.port = .answered k after → k = 0 ∨ c.n ≤ k →
      exec (.sign rdR rdS rsD) s = .next (faultState 0x0B { s with port := after })) ∧
    (∀ k after w R e, 1 ≤ d → d < c.n → draw s.port = .answered k after → 1 ≤ k → k < c.n → c.smul c.g k = .ok R →
      R.inf = false → R.x % c.n ≠ 0 → digestValue s.digest = .ok e → k * w % c.n = 1 →
      w * (e.toNat + d * (R.x % c.n)) % c.n ≠ 0 →
      exec (.sign rdR rdS rsD) s = .next { withScalar (withScalar s rdR (R.x % c.n)) rdS
        (w * (e.toNat + d * (R.x % c.n)) % c.n) with port := after })

/-- 44_ecdsa.md R141, 70_reset_and_hazards.md R186: a SIGN that ends has made at most `SIGN_RETRY_LIMIT` draws, and one that ends without
a fault has made at least one and leaves `1 ≤ r ≤ n - 1` and `1 ≤ s ≤ n - 1`. SIGN tries again after each draw with `r` = 0 or
`s` = 0: after `SIGN_RETRY_LIMIT` of them it faults with `F_SIGN_RETRY`; after fewer the next draw decides: out of range it faults, with
no inverse it faults, else it signs, or it is never answered and SIGN waits with nothing written (log entry 5). The queue of answers
and the counter of draws are the model's (log entry 4). -/
def Obligations.SignDrawsAndRanges : Prop :=
  (∀ (s t : State) (rdR rdS rsD : SReg), rdR ≠ rdS → s.fault = false → exec (.sign rdR rdS rsD) s = .next t →
    s.port.drawn ≤ t.port.drawn ∧ t.port.drawn ≤ s.port.drawn + Config.signRetryLimit ∧
    (t.fault = false → t.waiting = false → s.port.drawn < t.port.drawn ∧ 1 ≤ scalar t rdR ∧ scalar t rdR < s.params.cn.toNat ∧
      1 ≤ scalar t rdS ∧ scalar t rdS < s.params.cn.toNat)) ∧
  (∀ (s : State) (rdR rdS rsD : SReg) (c : Curve) (e : Wide) (d : Nat) (ks : List Nat) (mid : RandomPort),
    rdR ≠ rdS → c = curveOf s.params → s.curveOk = true → digestValue s.digest = .ok e → d = scalar s rsD → 1 ≤ d → d < c.n →
    drawsInTurn s.port ks mid → (∀ k ∈ ks, retryDraw c e.toNat d k) →
    (ks.length = Config.signRetryLimit → exec (.sign rdR rdS rsD) s = .next (faultState 0x0C { s with port := mid })) ∧
    (ks.length < Config.signRetryLimit →
      (∀ k after, draw mid = .answered k after →
        (k = 0 ∨ c.n ≤ k → exec (.sign rdR rdS rsD) s = .next (faultState 0x0B { s with port := after })) ∧
        (∀ R, 1 ≤ k → k < c.n → c.smul c.g k = .ok R → R.inf = false → R.x % c.n ≠ 0 → Nat.gcd k c.n ≠ 1 →
          exec (.sign rdR rdS rsD) s = .next (faultState 0x07 { s with port := after })) ∧
        (∀ r sg, signingDraw c e.toNat d k r sg →
          exec (.sign rdR rdS rsD) s = .next { withScalar (withScalar s rdR r) rdS sg with port := after })) ∧
      (∀ rest, mid.answers = .silent :: rest →
        exec (.sign rdR rdS rsD) s = .next { s with waiting := true, port := { mid with answers := rest } })))

/-- 44_ecdsa.md R142: on a prime modulus VERIFY never faults and gives `T` = 1 exactly when every condition of the rule holds; it
writes nothing else. -/
def Obligations.VerifyDecidesValidity : Prop :=
  ∀ (s : State) (rsR rsS : SReg) (psQ : PReg) (c : Curve) (e : Wide), c = curveOf s.params → s.curveOk = true →
    Safety.curveOkConstructed s → Nat.Prime c.p → digestValue s.digest = .ok e →
    (validSignature c e.toNat (scalar s rsR) (scalar s rsS) (point s psQ) →
      exec (.verify rsR rsS psQ) s = .next { s with t := true }) ∧
    (¬ validSignature c e.toNat (scalar s rsR) (scalar s rsS) (point s psQ) →
      exec (.verify rsR rsS psQ) s = .next { s with t := false })

/-- 44_ecdsa.md R142, 93_implementation_defined.md U4: the rejections that hold for every modulus, composite ones too. -/
def Obligations.VerifyRejectsBadInputs : Prop :=
  ∀ (s : State) (rsR rsS : SReg) (psQ : PReg) (c : Curve), c = curveOf s.params → s.curveOk = true →
    (¬ onCurve c (point s psQ) ∨
      (∃ V, c.smul (point s psQ) c.n = .ok V ∧
        (V.inf = false ∨ scalar s rsR < 1 ∨ c.n ≤ scalar s rsR ∨ scalar s rsS < 1 ∨ c.n ≤ scalar s rsS ∨
          Nat.gcd (scalar s rsS) c.n ≠ 1))) →
    exec (.verify rsR rsS psQ) s = .next { s with t := false }

/-- 44_ecdsa.md R143: what SIGN signed, VERIFY accepts, for primes `p` and `n`, a generator of order `n`, every key pair and message
and every sequence of draws that lets SIGN end without a fault. -/
def Obligations.SignedMessageVerifies : Prop :=
  ∀ (s t : State) (rdR rdS rsD : SReg) (psQ : PReg) (c : Curve) (Q : Point), rdR ≠ rdS → c = curveOf s.params →
    s.curveOk = true → Safety.curveOkConstructed s → s.fault = false → Nat.Prime c.p → Nat.Prime c.n →
    c.g.inf = false → 1 ≤ scalar s rsD → scalar s rsD ≤ c.n - 1 → c.smul c.g (scalar s rsD) = .ok Q → point s psQ = Q →
    exec (.sign rdR rdS rsD) s = .next t → t.fault = false → t.waiting = false →
    exec (.verify rdR rdS psQ) t = .next { t with t := true }

end
end

