-- ==== Sys2Proof/Laws/Encoding.lean ====
section
/-! SUPPORT. The fields of an assembled word, and the word from its fields (30_encoding.md R51). -/

namespace Sys2Proof

/-- Bit `k` of an assembled word. -/
theorem mkWord_getLsbD (o : BitVec 8) (a b c : BitVec 4) (m : BitVec 12) (k : Nat) :
    (mkWord o a b c m).getLsbD k =
      if k < 12 then m.getLsbD k else if k < 16 then c.getLsbD (k - 12) else if k < 20 then b.getLsbD (k - 16)
      else if k < 24 then a.getLsbD (k - 20) else o.getLsbD (k - 24) := by
  unfold mkWord
  rw [BitVec.getLsbD_append, BitVec.getLsbD_append, BitVec.getLsbD_append, BitVec.getLsbD_append]
  by_cases h1 : k < 12
  · simp [h1]
  · by_cases h2 : k < 16
    · have : k - 12 < 4 := by omega
      simp [h1, h2, this]
    · by_cases h3 : k < 20
      · have e1 : ¬ k - 12 < 4 := by omega
        have e2 : k - 12 - 4 < 4 := by omega
        have e3 : k - 12 - 4 = k - 16 := by omega
        simp [h1, h2, h3, e1, e3]; omega
      · by_cases h4 : k < 24
        · have e1 : ¬ k - 12 < 4 := by omega
          have e2 : ¬ k - 12 - 4 < 4 := by omega
          have e3 : k - 12 - 4 - 4 = k - 20 := by omega
          simp [h1, h2, h3, h4, e1, e2, e3]; omega
        · have e1 : ¬ k - 12 < 4 := by omega
          have e2 : ¬ k - 12 - 4 < 4 := by omega
          have e3 : ¬ k - 12 - 4 - 4 < 4 := by omega
          have e4 : k - 12 - 4 - 4 - 4 = k - 24 := by omega
          simp [h1, h2, h3, h4, e1, e2, e3, e4]

@[simp] theorem opcodeOf_mkWord (o : BitVec 8) (a b c : BitVec 4) (m : BitVec 12) : opcodeOf (mkWord o a b c m) = o := by
  apply BitVec.eq_of_getLsbD_eq
  intro k hk
  rw [opcodeOf, BitVec.getLsbD_extractLsb', mkWord_getLsbD]
  have : ¬ 24 + k < 12 ∧ ¬ 24 + k < 16 ∧ ¬ 24 + k < 20 ∧ ¬ 24 + k < 24 := by omega
  simp [hk, this]

@[simp] theorem fieldA_mkWord (o : BitVec 8) (a b c : BitVec 4) (m : BitVec 12) : fieldA (mkWord o a b c m) = a := by
  apply BitVec.eq_of_getLsbD_eq
  intro k hk
  rw [fieldA, BitVec.getLsbD_extractLsb', mkWord_getLsbD]
  have : ¬ 20 + k < 12 ∧ ¬ 20 + k < 16 ∧ ¬ 20 + k < 20 ∧ 20 + k < 24 := by omega
  simp [hk, this]

@[simp] theorem fieldB_mkWord (o : BitVec 8) (a b c : BitVec 4) (m : BitVec 12) : fieldB (mkWord o a b c m) = b := by
  apply BitVec.eq_of_getLsbD_eq
  intro k hk
  rw [fieldB, BitVec.getLsbD_extractLsb', mkWord_getLsbD]
  have : ¬ 16 + k < 12 ∧ ¬ 16 + k < 16 ∧ 16 + k < 20 := by omega
  simp [hk, this]

@[simp] theorem fieldC_mkWord (o : BitVec 8) (a b c : BitVec 4) (m : BitVec 12) : fieldC (mkWord o a b c m) = c := by
  apply BitVec.eq_of_getLsbD_eq
  intro k hk
  rw [fieldC, BitVec.getLsbD_extractLsb', mkWord_getLsbD]
  have : ¬ 12 + k < 12 ∧ 12 + k < 16 := by omega
  simp [hk, this]

@[simp] theorem imm12Of_mkWord (o : BitVec 8) (a b c : BitVec 4) (m : BitVec 12) : imm12Of (mkWord o a b c m) = m := by
  apply BitVec.eq_of_getLsbD_eq
  intro k hk
  rw [imm12Of, BitVec.getLsbD_extractLsb', mkWord_getLsbD]
  simp [hk]

@[simp] theorem aboveMsel_mkWord (o : BitVec 8) (a b c : BitVec 4) (s : ModSel) :
    aboveMsel (mkWord o a b c (mselBits s)) = 0 := by
  apply BitVec.eq_of_getLsbD_eq
  intro k hk
  rw [aboveMsel, BitVec.getLsbD_extractLsb', mkWord_getLsbD]
  have : 1 + k < 12 := by omega
  cases s <;> simp [hk, this, mselBits]

@[simp] theorem mselOf_mkWord (o : BitVec 8) (a b c : BitVec 4) (s : ModSel) :
    mselOf (mkWord o a b c (mselBits s)) = s := by
  rw [mselOf, mkWord_getLsbD]
  cases s <;> simp [mselBits]

@[simp] theorem notPoint_pointBits (p : PReg) : notPoint (pointBits p) = false := by
  revert p; decide

@[simp] theorem pointOf_pointBits (p : PReg) : pointOf (pointBits p) = p := by
  revert p; decide

theorem pointBits_pointOf (f : BitVec 4) (h : notPoint f = false) : pointBits (pointOf f) = f := by
  revert f; decide

/-- A word is put together from its own fields. -/
theorem mkWord_fields (w : Word) : mkWord (opcodeOf w) (fieldA w) (fieldB w) (fieldC w) (imm12Of w) = w := by
  apply BitVec.eq_of_getLsbD_eq
  intro k hk
  rw [mkWord_getLsbD, opcodeOf, fieldA, fieldB, fieldC, imm12Of]
  simp only [BitVec.getLsbD_extractLsb']
  split_ifs with h1 h2 h3 h4
  · simp [h1]
  · have : k - 12 < 4 := by omega
    have e : 12 + (k - 12) = k := by omega
    simp [this, e]
  · have : k - 16 < 4 := by omega
    have e : 16 + (k - 16) = k := by omega
    simp [this, e]
  · have : k - 20 < 4 := by omega
    have e : 20 + (k - 20) = k := by omega
    simp [this, e]
  · have : k - 24 < 8 := by omega
    have e : 24 + (k - 24) = k := by omega
    simp [this, e]

/-- Masking an assembled word masks its fields. -/
theorem mkWord_and (o o' : BitVec 8) (a b c a' b' c' : BitVec 4) (m m' : BitVec 12) :
    mkWord o a b c m &&& mkWord o' a' b' c' m' = mkWord (o &&& o') (a &&& a') (b &&& b') (c &&& c') (m &&& m') := by
  apply BitVec.eq_of_getLsbD_eq
  intro k hk
  rw [BitVec.getLsbD_and, mkWord_getLsbD, mkWord_getLsbD, mkWord_getLsbD]
  split_ifs <;> simp [BitVec.getLsbD_and]

theorem mselBits_and (s : ModSel) : mselBits s &&& 4094#12 = 0#12 := by cases s <;> decide

theorem pointBits_and (p : PReg) : pointBits p &&& 8#4 = 0#4 := by revert p; decide

end Sys2Proof
end

