-- ==== Sys2Proof/Laws/State.lean ====
section
/-! SUPPORT. One lemma per field per named update of the state, true by `rfl`, so that no later proof unfolds a record update. -/

namespace Sys2Proof.Machine

/-! ## `takeFault` -/

@[simp] theorem takeFault_scalars (c : FaultCause) (s : State) : (takeFault c s).scalars = s.scalars := rfl
@[simp] theorem takeFault_points (c : FaultCause) (s : State) : (takeFault c s).points = s.points := rfl
@[simp] theorem takeFault_params (c : FaultCause) (s : State) : (takeFault c s).params = s.params := rfl
@[simp] theorem takeFault_t (c : FaultCause) (s : State) : (takeFault c s).t = s.t := rfl
@[simp] theorem takeFault_fault (c : FaultCause) (s : State) : (takeFault c s).fault = true := rfl
@[simp] theorem takeFault_curveOk (c : FaultCause) (s : State) : (takeFault c s).curveOk = s.curveOk := rfl
@[simp] theorem takeFault_fcause (c : FaultCause) (s : State) : (takeFault c s).fcause = faultCode c := rfl
@[simp] theorem takeFault_finfo (c : FaultCause) (s : State) : (takeFault c s).finfo = s.cmd := rfl
@[simp] theorem takeFault_cmd (c : FaultCause) (s : State) : (takeFault c s).cmd = s.cmd := rfl
@[simp] theorem takeFault_digest (c : FaultCause) (s : State) : (takeFault c s).digest = s.digest := rfl
@[simp] theorem takeFault_msg (c : FaultCause) (s : State) : (takeFault c s).msg = s.msg := rfl
@[simp] theorem takeFault_waiting (c : FaultCause) (s : State) : (takeFault c s).waiting = s.waiting := rfl
@[simp] theorem takeFault_pending (c : FaultCause) (s : State) : (takeFault c s).pending = s.pending := rfl
@[simp] theorem takeFault_replies (c : FaultCause) (s : State) : (takeFault c s).replies = s.replies := rfl
@[simp] theorem takeFault_port (c : FaultCause) (s : State) : (takeFault c s).port = s.port := rfl
@[simp] theorem takeFault_epoch (c : FaultCause) (s : State) : (takeFault c s).epoch = s.epoch := rfl

/-! ## `resetBlock` -/

@[simp] theorem resetBlock_scalars (s : State) : (resetBlock s).scalars = State.reset.scalars := rfl
@[simp] theorem resetBlock_points (s : State) : (resetBlock s).points = State.reset.points := rfl
@[simp] theorem resetBlock_params (s : State) : (resetBlock s).params = State.reset.params := rfl
@[simp] theorem resetBlock_t (s : State) : (resetBlock s).t = false := rfl
@[simp] theorem resetBlock_fault (s : State) : (resetBlock s).fault = false := rfl
@[simp] theorem resetBlock_curveOk (s : State) : (resetBlock s).curveOk = false := rfl
@[simp] theorem resetBlock_fcause (s : State) : (resetBlock s).fcause = 0 := rfl
@[simp] theorem resetBlock_finfo (s : State) : (resetBlock s).finfo = 0 := rfl
@[simp] theorem resetBlock_cmd (s : State) : (resetBlock s).cmd = 0 := rfl
@[simp] theorem resetBlock_digest (s : State) : (resetBlock s).digest = .initial := rfl
@[simp] theorem resetBlock_msg (s : State) : (resetBlock s).msg = [] := rfl
@[simp] theorem resetBlock_waiting (s : State) : (resetBlock s).waiting = false := rfl
@[simp] theorem resetBlock_pending (s : State) : (resetBlock s).pending = s.pending := rfl
@[simp] theorem resetBlock_replies (s : State) : (resetBlock s).replies = s.replies := rfl
@[simp] theorem resetBlock_port (s : State) : (resetBlock s).port = s.port := rfl
@[simp] theorem resetBlock_epoch (s : State) : (resetBlock s).epoch = s.epoch + 1 := rfl

/-! ## `awaitSource` -/

@[simp] theorem awaitSource_scalars (q : RandomPort) (s : State) : (awaitSource q s).scalars = s.scalars := rfl
@[simp] theorem awaitSource_points (q : RandomPort) (s : State) : (awaitSource q s).points = s.points := rfl
@[simp] theorem awaitSource_params (q : RandomPort) (s : State) : (awaitSource q s).params = s.params := rfl
@[simp] theorem awaitSource_t (q : RandomPort) (s : State) : (awaitSource q s).t = s.t := rfl
@[simp] theorem awaitSource_fault (q : RandomPort) (s : State) : (awaitSource q s).fault = s.fault := rfl
@[simp] theorem awaitSource_curveOk (q : RandomPort) (s : State) : (awaitSource q s).curveOk = s.curveOk := rfl
@[simp] theorem awaitSource_fcause (q : RandomPort) (s : State) : (awaitSource q s).fcause = s.fcause := rfl
@[simp] theorem awaitSource_finfo (q : RandomPort) (s : State) : (awaitSource q s).finfo = s.finfo := rfl
@[simp] theorem awaitSource_cmd (q : RandomPort) (s : State) : (awaitSource q s).cmd = s.cmd := rfl
@[simp] theorem awaitSource_digest (q : RandomPort) (s : State) : (awaitSource q s).digest = s.digest := rfl
@[simp] theorem awaitSource_msg (q : RandomPort) (s : State) : (awaitSource q s).msg = s.msg := rfl
@[simp] theorem awaitSource_pending (q : RandomPort) (s : State) : (awaitSource q s).pending = s.pending := rfl
@[simp] theorem awaitSource_replies (q : RandomPort) (s : State) : (awaitSource q s).replies = s.replies := rfl
@[simp] theorem awaitSource_epoch (q : RandomPort) (s : State) : (awaitSource q s).epoch = s.epoch := rfl
@[simp] theorem awaitSource_waiting (q : RandomPort) (s : State) : (awaitSource q s).waiting = true := rfl
@[simp] theorem awaitSource_port (q : RandomPort) (s : State) : (awaitSource q s).port = q := rfl

/-! ## `writeScalar` -/

@[simp] theorem writeScalar_scalars (s : State) (i : SReg) (v : Wide) : (writeScalar s i v).scalars = s.scalars.set i.toNat v i.isLt := rfl
@[simp] theorem writeScalar_points (s : State) (i : SReg) (v : Wide) : (writeScalar s i v).points = s.points := rfl
@[simp] theorem writeScalar_params (s : State) (i : SReg) (v : Wide) : (writeScalar s i v).params = s.params := rfl
@[simp] theorem writeScalar_t (s : State) (i : SReg) (v : Wide) : (writeScalar s i v).t = s.t := rfl
@[simp] theorem writeScalar_fault (s : State) (i : SReg) (v : Wide) : (writeScalar s i v).fault = s.fault := rfl
@[simp] theorem writeScalar_curveOk (s : State) (i : SReg) (v : Wide) : (writeScalar s i v).curveOk = s.curveOk := rfl
@[simp] theorem writeScalar_fcause (s : State) (i : SReg) (v : Wide) : (writeScalar s i v).fcause = s.fcause := rfl
@[simp] theorem writeScalar_finfo (s : State) (i : SReg) (v : Wide) : (writeScalar s i v).finfo = s.finfo := rfl
@[simp] theorem writeScalar_cmd (s : State) (i : SReg) (v : Wide) : (writeScalar s i v).cmd = s.cmd := rfl
@[simp] theorem writeScalar_digest (s : State) (i : SReg) (v : Wide) : (writeScalar s i v).digest = s.digest := rfl
@[simp] theorem writeScalar_msg (s : State) (i : SReg) (v : Wide) : (writeScalar s i v).msg = s.msg := rfl
@[simp] theorem writeScalar_waiting (s : State) (i : SReg) (v : Wide) : (writeScalar s i v).waiting = s.waiting := rfl
@[simp] theorem writeScalar_pending (s : State) (i : SReg) (v : Wide) : (writeScalar s i v).pending = s.pending := rfl
@[simp] theorem writeScalar_replies (s : State) (i : SReg) (v : Wide) : (writeScalar s i v).replies = s.replies := rfl
@[simp] theorem writeScalar_port (s : State) (i : SReg) (v : Wide) : (writeScalar s i v).port = s.port := rfl
@[simp] theorem writeScalar_epoch (s : State) (i : SReg) (v : Wide) : (writeScalar s i v).epoch = s.epoch := rfl

/-! ## `setScalar` -/

@[simp] theorem setScalar_scalars (s : State) (i : SReg) (v : Nat) : (setScalar s i v).scalars = s.scalars.set i.toNat (BitVec.ofNat 256 v) i.isLt := rfl
@[simp] theorem setScalar_points (s : State) (i : SReg) (v : Nat) : (setScalar s i v).points = s.points := rfl
@[simp] theorem setScalar_params (s : State) (i : SReg) (v : Nat) : (setScalar s i v).params = s.params := rfl
@[simp] theorem setScalar_t (s : State) (i : SReg) (v : Nat) : (setScalar s i v).t = s.t := rfl
@[simp] theorem setScalar_fault (s : State) (i : SReg) (v : Nat) : (setScalar s i v).fault = s.fault := rfl
@[simp] theorem setScalar_curveOk (s : State) (i : SReg) (v : Nat) : (setScalar s i v).curveOk = s.curveOk := rfl
@[simp] theorem setScalar_fcause (s : State) (i : SReg) (v : Nat) : (setScalar s i v).fcause = s.fcause := rfl
@[simp] theorem setScalar_finfo (s : State) (i : SReg) (v : Nat) : (setScalar s i v).finfo = s.finfo := rfl
@[simp] theorem setScalar_cmd (s : State) (i : SReg) (v : Nat) : (setScalar s i v).cmd = s.cmd := rfl
@[simp] theorem setScalar_digest (s : State) (i : SReg) (v : Nat) : (setScalar s i v).digest = s.digest := rfl
@[simp] theorem setScalar_msg (s : State) (i : SReg) (v : Nat) : (setScalar s i v).msg = s.msg := rfl
@[simp] theorem setScalar_waiting (s : State) (i : SReg) (v : Nat) : (setScalar s i v).waiting = s.waiting := rfl
@[simp] theorem setScalar_pending (s : State) (i : SReg) (v : Nat) : (setScalar s i v).pending = s.pending := rfl
@[simp] theorem setScalar_replies (s : State) (i : SReg) (v : Nat) : (setScalar s i v).replies = s.replies := rfl
@[simp] theorem setScalar_port (s : State) (i : SReg) (v : Nat) : (setScalar s i v).port = s.port := rfl
@[simp] theorem setScalar_epoch (s : State) (i : SReg) (v : Nat) : (setScalar s i v).epoch = s.epoch := rfl

/-! ## `writePointReg` -/

@[simp] theorem writePointReg_scalars (s : State) (i : PReg) (r : PointReg) : (writePointReg s i r).scalars = s.scalars := rfl
@[simp] theorem writePointReg_points (s : State) (i : PReg) (r : PointReg) : (writePointReg s i r).points = s.points.set i.toNat r i.isLt := rfl
@[simp] theorem writePointReg_params (s : State) (i : PReg) (r : PointReg) : (writePointReg s i r).params = s.params := rfl
@[simp] theorem writePointReg_t (s : State) (i : PReg) (r : PointReg) : (writePointReg s i r).t = s.t := rfl
@[simp] theorem writePointReg_fault (s : State) (i : PReg) (r : PointReg) : (writePointReg s i r).fault = s.fault := rfl
@[simp] theorem writePointReg_curveOk (s : State) (i : PReg) (r : PointReg) : (writePointReg s i r).curveOk = s.curveOk := rfl
@[simp] theorem writePointReg_fcause (s : State) (i : PReg) (r : PointReg) : (writePointReg s i r).fcause = s.fcause := rfl
@[simp] theorem writePointReg_finfo (s : State) (i : PReg) (r : PointReg) : (writePointReg s i r).finfo = s.finfo := rfl
@[simp] theorem writePointReg_cmd (s : State) (i : PReg) (r : PointReg) : (writePointReg s i r).cmd = s.cmd := rfl
@[simp] theorem writePointReg_digest (s : State) (i : PReg) (r : PointReg) : (writePointReg s i r).digest = s.digest := rfl
@[simp] theorem writePointReg_msg (s : State) (i : PReg) (r : PointReg) : (writePointReg s i r).msg = s.msg := rfl
@[simp] theorem writePointReg_waiting (s : State) (i : PReg) (r : PointReg) : (writePointReg s i r).waiting = s.waiting := rfl
@[simp] theorem writePointReg_pending (s : State) (i : PReg) (r : PointReg) : (writePointReg s i r).pending = s.pending := rfl
@[simp] theorem writePointReg_replies (s : State) (i : PReg) (r : PointReg) : (writePointReg s i r).replies = s.replies := rfl
@[simp] theorem writePointReg_port (s : State) (i : PReg) (r : PointReg) : (writePointReg s i r).port = s.port := rfl
@[simp] theorem writePointReg_epoch (s : State) (i : PReg) (r : PointReg) : (writePointReg s i r).epoch = s.epoch := rfl

/-! ## `setPoint` -/

@[simp] theorem setPoint_scalars (s : State) (i : PReg) (v : Point) : (setPoint s i v).scalars = s.scalars := rfl
@[simp] theorem setPoint_points (s : State) (i : PReg) (v : Point) : (setPoint s i v).points = s.points.set i.toNat (regOfPoint v) i.isLt := rfl
@[simp] theorem setPoint_params (s : State) (i : PReg) (v : Point) : (setPoint s i v).params = s.params := rfl
@[simp] theorem setPoint_t (s : State) (i : PReg) (v : Point) : (setPoint s i v).t = s.t := rfl
@[simp] theorem setPoint_fault (s : State) (i : PReg) (v : Point) : (setPoint s i v).fault = s.fault := rfl
@[simp] theorem setPoint_curveOk (s : State) (i : PReg) (v : Point) : (setPoint s i v).curveOk = s.curveOk := rfl
@[simp] theorem setPoint_fcause (s : State) (i : PReg) (v : Point) : (setPoint s i v).fcause = s.fcause := rfl
@[simp] theorem setPoint_finfo (s : State) (i : PReg) (v : Point) : (setPoint s i v).finfo = s.finfo := rfl
@[simp] theorem setPoint_cmd (s : State) (i : PReg) (v : Point) : (setPoint s i v).cmd = s.cmd := rfl
@[simp] theorem setPoint_digest (s : State) (i : PReg) (v : Point) : (setPoint s i v).digest = s.digest := rfl
@[simp] theorem setPoint_msg (s : State) (i : PReg) (v : Point) : (setPoint s i v).msg = s.msg := rfl
@[simp] theorem setPoint_waiting (s : State) (i : PReg) (v : Point) : (setPoint s i v).waiting = s.waiting := rfl
@[simp] theorem setPoint_pending (s : State) (i : PReg) (v : Point) : (setPoint s i v).pending = s.pending := rfl
@[simp] theorem setPoint_replies (s : State) (i : PReg) (v : Point) : (setPoint s i v).replies = s.replies := rfl
@[simp] theorem setPoint_port (s : State) (i : PReg) (v : Point) : (setPoint s i v).port = s.port := rfl
@[simp] theorem setPoint_epoch (s : State) (i : PReg) (v : Point) : (setPoint s i v).epoch = s.epoch := rfl

/-! ## `writeMsg` -/

@[simp] theorem writeMsg_scalars (s : State) (i : Nat) (b : Byte) : (writeMsg s i b).scalars = s.scalars := rfl
@[simp] theorem writeMsg_points (s : State) (i : Nat) (b : Byte) : (writeMsg s i b).points = s.points := rfl
@[simp] theorem writeMsg_params (s : State) (i : Nat) (b : Byte) : (writeMsg s i b).params = s.params := rfl
@[simp] theorem writeMsg_t (s : State) (i : Nat) (b : Byte) : (writeMsg s i b).t = s.t := rfl
@[simp] theorem writeMsg_fault (s : State) (i : Nat) (b : Byte) : (writeMsg s i b).fault = s.fault := rfl
@[simp] theorem writeMsg_curveOk (s : State) (i : Nat) (b : Byte) : (writeMsg s i b).curveOk = s.curveOk := rfl
@[simp] theorem writeMsg_fcause (s : State) (i : Nat) (b : Byte) : (writeMsg s i b).fcause = s.fcause := rfl
@[simp] theorem writeMsg_finfo (s : State) (i : Nat) (b : Byte) : (writeMsg s i b).finfo = s.finfo := rfl
@[simp] theorem writeMsg_cmd (s : State) (i : Nat) (b : Byte) : (writeMsg s i b).cmd = s.cmd := rfl
@[simp] theorem writeMsg_digest (s : State) (i : Nat) (b : Byte) : (writeMsg s i b).digest = s.digest := rfl
@[simp] theorem writeMsg_msg (s : State) (i : Nat) (b : Byte) : (writeMsg s i b).msg = Memory.put s.msg i b := rfl
@[simp] theorem writeMsg_waiting (s : State) (i : Nat) (b : Byte) : (writeMsg s i b).waiting = s.waiting := rfl
@[simp] theorem writeMsg_pending (s : State) (i : Nat) (b : Byte) : (writeMsg s i b).pending = s.pending := rfl
@[simp] theorem writeMsg_replies (s : State) (i : Nat) (b : Byte) : (writeMsg s i b).replies = s.replies := rfl
@[simp] theorem writeMsg_port (s : State) (i : Nat) (b : Byte) : (writeMsg s i b).port = s.port := rfl
@[simp] theorem writeMsg_epoch (s : State) (i : Nat) (b : Byte) : (writeMsg s i b).epoch = s.epoch := rfl

/-! ## `writeMsgWord` -/

@[simp] theorem writeMsgWord_scalars (s : State) (k : BitVec 6) (w : Word) : (writeMsgWord s k w).scalars = s.scalars := rfl
@[simp] theorem writeMsgWord_points (s : State) (k : BitVec 6) (w : Word) : (writeMsgWord s k w).points = s.points := rfl
@[simp] theorem writeMsgWord_params (s : State) (k : BitVec 6) (w : Word) : (writeMsgWord s k w).params = s.params := rfl
@[simp] theorem writeMsgWord_t (s : State) (k : BitVec 6) (w : Word) : (writeMsgWord s k w).t = s.t := rfl
@[simp] theorem writeMsgWord_fault (s : State) (k : BitVec 6) (w : Word) : (writeMsgWord s k w).fault = s.fault := rfl
@[simp] theorem writeMsgWord_curveOk (s : State) (k : BitVec 6) (w : Word) : (writeMsgWord s k w).curveOk = s.curveOk := rfl
@[simp] theorem writeMsgWord_fcause (s : State) (k : BitVec 6) (w : Word) : (writeMsgWord s k w).fcause = s.fcause := rfl
@[simp] theorem writeMsgWord_finfo (s : State) (k : BitVec 6) (w : Word) : (writeMsgWord s k w).finfo = s.finfo := rfl
@[simp] theorem writeMsgWord_cmd (s : State) (k : BitVec 6) (w : Word) : (writeMsgWord s k w).cmd = s.cmd := rfl
@[simp] theorem writeMsgWord_digest (s : State) (k : BitVec 6) (w : Word) : (writeMsgWord s k w).digest = s.digest := rfl
@[simp] theorem writeMsgWord_waiting (s : State) (k : BitVec 6) (w : Word) : (writeMsgWord s k w).waiting = s.waiting := rfl
@[simp] theorem writeMsgWord_pending (s : State) (k : BitVec 6) (w : Word) : (writeMsgWord s k w).pending = s.pending := rfl
@[simp] theorem writeMsgWord_replies (s : State) (k : BitVec 6) (w : Word) : (writeMsgWord s k w).replies = s.replies := rfl
@[simp] theorem writeMsgWord_port (s : State) (k : BitVec 6) (w : Word) : (writeMsgWord s k w).port = s.port := rfl
@[simp] theorem writeMsgWord_epoch (s : State) (k : BitVec 6) (w : Word) : (writeMsgWord s k w).epoch = s.epoch := rfl

/-! ## `setT` -/

@[simp] theorem setT_scalars (s : State) (b : Bool) : (setT s b).scalars = s.scalars := rfl
@[simp] theorem setT_points (s : State) (b : Bool) : (setT s b).points = s.points := rfl
@[simp] theorem setT_params (s : State) (b : Bool) : (setT s b).params = s.params := rfl
@[simp] theorem setT_t (s : State) (b : Bool) : (setT s b).t = b := rfl
@[simp] theorem setT_fault (s : State) (b : Bool) : (setT s b).fault = s.fault := rfl
@[simp] theorem setT_curveOk (s : State) (b : Bool) : (setT s b).curveOk = s.curveOk := rfl
@[simp] theorem setT_fcause (s : State) (b : Bool) : (setT s b).fcause = s.fcause := rfl
@[simp] theorem setT_finfo (s : State) (b : Bool) : (setT s b).finfo = s.finfo := rfl
@[simp] theorem setT_cmd (s : State) (b : Bool) : (setT s b).cmd = s.cmd := rfl
@[simp] theorem setT_digest (s : State) (b : Bool) : (setT s b).digest = s.digest := rfl
@[simp] theorem setT_msg (s : State) (b : Bool) : (setT s b).msg = s.msg := rfl
@[simp] theorem setT_waiting (s : State) (b : Bool) : (setT s b).waiting = s.waiting := rfl
@[simp] theorem setT_pending (s : State) (b : Bool) : (setT s b).pending = s.pending := rfl
@[simp] theorem setT_replies (s : State) (b : Bool) : (setT s b).replies = s.replies := rfl
@[simp] theorem setT_port (s : State) (b : Bool) : (setT s b).port = s.port := rfl
@[simp] theorem setT_epoch (s : State) (b : Bool) : (setT s b).epoch = s.epoch := rfl

/-! ## `setCurveOk` -/

@[simp] theorem setCurveOk_scalars (s : State) : (setCurveOk s).scalars = s.scalars := rfl
@[simp] theorem setCurveOk_points (s : State) : (setCurveOk s).points = s.points := rfl
@[simp] theorem setCurveOk_params (s : State) : (setCurveOk s).params = s.params := rfl
@[simp] theorem setCurveOk_t (s : State) : (setCurveOk s).t = s.t := rfl
@[simp] theorem setCurveOk_fault (s : State) : (setCurveOk s).fault = s.fault := rfl
@[simp] theorem setCurveOk_curveOk (s : State) : (setCurveOk s).curveOk = true := rfl
@[simp] theorem setCurveOk_fcause (s : State) : (setCurveOk s).fcause = s.fcause := rfl
@[simp] theorem setCurveOk_finfo (s : State) : (setCurveOk s).finfo = s.finfo := rfl
@[simp] theorem setCurveOk_cmd (s : State) : (setCurveOk s).cmd = s.cmd := rfl
@[simp] theorem setCurveOk_digest (s : State) : (setCurveOk s).digest = s.digest := rfl
@[simp] theorem setCurveOk_msg (s : State) : (setCurveOk s).msg = s.msg := rfl
@[simp] theorem setCurveOk_waiting (s : State) : (setCurveOk s).waiting = s.waiting := rfl
@[simp] theorem setCurveOk_pending (s : State) : (setCurveOk s).pending = s.pending := rfl
@[simp] theorem setCurveOk_replies (s : State) : (setCurveOk s).replies = s.replies := rfl
@[simp] theorem setCurveOk_port (s : State) : (setCurveOk s).port = s.port := rfl
@[simp] theorem setCurveOk_epoch (s : State) : (setCurveOk s).epoch = s.epoch := rfl

/-! ## `reply` -/

@[simp] theorem reply_scalars (r : BusReply) (s : State) : (reply r s).scalars = s.scalars := rfl
@[simp] theorem reply_points (r : BusReply) (s : State) : (reply r s).points = s.points := rfl
@[simp] theorem reply_params (r : BusReply) (s : State) : (reply r s).params = s.params := rfl
@[simp] theorem reply_t (r : BusReply) (s : State) : (reply r s).t = s.t := rfl
@[simp] theorem reply_fault (r : BusReply) (s : State) : (reply r s).fault = s.fault := rfl
@[simp] theorem reply_curveOk (r : BusReply) (s : State) : (reply r s).curveOk = s.curveOk := rfl
@[simp] theorem reply_fcause (r : BusReply) (s : State) : (reply r s).fcause = s.fcause := rfl
@[simp] theorem reply_finfo (r : BusReply) (s : State) : (reply r s).finfo = s.finfo := rfl
@[simp] theorem reply_cmd (r : BusReply) (s : State) : (reply r s).cmd = s.cmd := rfl
@[simp] theorem reply_digest (r : BusReply) (s : State) : (reply r s).digest = s.digest := rfl
@[simp] theorem reply_msg (r : BusReply) (s : State) : (reply r s).msg = s.msg := rfl
@[simp] theorem reply_waiting (r : BusReply) (s : State) : (reply r s).waiting = s.waiting := rfl
@[simp] theorem reply_pending (r : BusReply) (s : State) : (reply r s).pending = s.pending := rfl
@[simp] theorem reply_replies (r : BusReply) (s : State) : (reply r s).replies = r :: s.replies := rfl
@[simp] theorem reply_port (r : BusReply) (s : State) : (reply r s).port = s.port := rfl
@[simp] theorem reply_epoch (r : BusReply) (s : State) : (reply r s).epoch = s.epoch := rfl

/-! ## `latchCommand` -/

@[simp] theorem latchCommand_scalars (w : Word) (s : State) : (latchCommand w s).scalars = s.scalars := rfl
@[simp] theorem latchCommand_points (w : Word) (s : State) : (latchCommand w s).points = s.points := rfl
@[simp] theorem latchCommand_params (w : Word) (s : State) : (latchCommand w s).params = s.params := rfl
@[simp] theorem latchCommand_t (w : Word) (s : State) : (latchCommand w s).t = s.t := rfl
@[simp] theorem latchCommand_fault (w : Word) (s : State) : (latchCommand w s).fault = s.fault := rfl
@[simp] theorem latchCommand_curveOk (w : Word) (s : State) : (latchCommand w s).curveOk = s.curveOk := rfl
@[simp] theorem latchCommand_fcause (w : Word) (s : State) : (latchCommand w s).fcause = s.fcause := rfl
@[simp] theorem latchCommand_finfo (w : Word) (s : State) : (latchCommand w s).finfo = s.finfo := rfl
@[simp] theorem latchCommand_cmd (w : Word) (s : State) : (latchCommand w s).cmd = w := rfl
@[simp] theorem latchCommand_digest (w : Word) (s : State) : (latchCommand w s).digest = s.digest := rfl
@[simp] theorem latchCommand_msg (w : Word) (s : State) : (latchCommand w s).msg = s.msg := rfl
@[simp] theorem latchCommand_waiting (w : Word) (s : State) : (latchCommand w s).waiting = s.waiting := rfl
@[simp] theorem latchCommand_pending (w : Word) (s : State) : (latchCommand w s).pending = s.pending := rfl
@[simp] theorem latchCommand_replies (w : Word) (s : State) : (latchCommand w s).replies = s.replies := rfl
@[simp] theorem latchCommand_port (w : Word) (s : State) : (latchCommand w s).port = s.port := rfl
@[simp] theorem latchCommand_epoch (w : Word) (s : State) : (latchCommand w s).epoch = s.epoch := rfl

end Sys2Proof.Machine
end

