-- ==== Sys2Proof/Laws/Memory.lean ====
section
/-! SUPPORT. The message buffer: read after write, and every operation keeps the canonical form. -/

namespace Sys2Proof.Machine

theorem Memory.find_put_same (m : List Host.Cell) (k : Nat) (v : Byte) : Memory.find (Memory.put m k v) k = some v := by
  induction m with
  | nil => simp [Memory.put, Memory.find]
  | cons c rest ih =>
    obtain ⟨a, b⟩ := c
    by_cases h1 : k < a
    · simp [Memory.put, Memory.find, h1]
    · by_cases h2 : k = a
      · simp [Memory.put, Memory.find, h2]
      · simp [Memory.put, Memory.find, h1, h2, Ne.symm h2, ih]

theorem Memory.find_put_other (m : List Host.Cell) (k j : Nat) (v : Byte) (h : j ≠ k) :
    Memory.find (Memory.put m k v) j = Memory.find m j := by
  induction m with
  | nil => simp [Memory.put, Memory.find, Ne.symm h]
  | cons c rest ih =>
    obtain ⟨a, b⟩ := c
    by_cases h1 : k < a
    · simp [Memory.put, Memory.find, h1, Ne.symm h]
    · by_cases h2 : k = a
      · subst h2; simp [Memory.put, Memory.find, Ne.symm h]
      · simp [Memory.put, Memory.find, h1, h2, ih]

theorem Memory.risesFrom_put (m : List Host.Cell) (lo k : Nat) (v : Byte)
    (h : Memory.risesFrom lo m = true) (hlo : lo ≤ k) (hk : k < Config.msgBytes) :
    Memory.risesFrom lo (Memory.put m k v) = true := by
  induction m generalizing lo with
  | nil => simp [Memory.put, Memory.risesFrom, hlo, hk]
  | cons c rest ih =>
    obtain ⟨a, b⟩ := c
    simp only [Memory.risesFrom, Bool.and_eq_true, decide_eq_true_eq] at h
    obtain ⟨⟨h1, h2⟩, h3⟩ := h
    by_cases c1 : k < a
    · simp [Memory.put, Memory.risesFrom, c1, hlo, hk, h2, h3]
    · by_cases c2 : k = a
      · subst c2; simp [Memory.put, Memory.risesFrom, h1, h2, h3]
      · simp [Memory.put, Memory.risesFrom, c1, c2, h1, h2, ih (a + 1) h3 (by omega)]

/-- A write inside the buffer keeps the canonical form. -/
theorem Memory.wf_put (m : List Host.Cell) (k : Nat) (v : Byte) (h : Memory.wf m = true) (hk : k < Config.msgBytes) :
    Memory.wf (Memory.put m k v) = true :=
  Memory.risesFrom_put m 0 k v h (Nat.zero_le k) hk

/-- Nothing is listed at reset. -/
theorem Memory.wf_reset : Memory.wf State.reset.msg = true := rfl

@[simp] theorem readMsg_writeMsg_same (s : State) (i : Nat) (b : Byte) : readMsg (writeMsg s i b) i = b := by
  simp [readMsg, Memory.find_put_same]

theorem readMsg_writeMsg_other (s : State) (i j : Nat) (b : Byte) (h : j ≠ i) :
    readMsg (writeMsg s i b) j = readMsg s j := by
  simp [readMsg, Memory.find_put_other _ _ _ _ h]

theorem wf_writeMsg (s : State) (i : Nat) (b : Byte) (h : Memory.wf s.msg = true) (hi : i < Config.msgBytes) :
    Memory.wf (writeMsg s i b).msg = true :=
  Memory.wf_put s.msg i b h hi

/-- A bus write of a message word keeps the canonical form. -/
theorem wf_writeMsgWord (s : State) (k : BitVec 6) (w : Word) (h : Memory.wf s.msg = true) :
    Memory.wf (writeMsgWord s k w).msg = true := by
  have hk := k.isLt
  have hb : ∀ r, r < 4 → 4 * k.toNat + r < Config.msgBytes := by intro r hr; simp [Config.msgBytes]; omega
  exact wf_writeMsg _ _ _ (wf_writeMsg _ _ _ (wf_writeMsg _ _ _ (wf_writeMsg _ _ _ h (hb 0 (by omega)))
    (hb 1 (by omega))) (hb 2 (by omega))) (hb 3 (by omega))

/-- A byte outside the written word reads as before. -/
theorem readMsg_writeMsgWord_other (s : State) (k : BitVec 6) (w : Word) (j : Nat) (h : j / 4 ≠ k.toNat) :
    readMsg (writeMsgWord s k w) j = readMsg s j := by
  have e : ∀ r, r < 4 → j ≠ 4 * k.toNat + r := by intro r hr e; omega
  have e0 : j ≠ 4 * k.toNat := e 0 (by omega)
  rw [writeMsgWord, readMsg_writeMsg_other _ _ _ _ (e 3 (by omega)), readMsg_writeMsg_other _ _ _ _ (e 2 (by omega)),
    readMsg_writeMsg_other _ _ _ _ (e 1 (by omega)), readMsg_writeMsg_other _ _ _ _ e0]

@[simp] theorem memRead_length (s : State) (addr n : Nat) : (memRead s addr n).length = n := by simp [memRead]

end Sys2Proof.Machine
end

