-- ==== Sys2Proof/Laws/PerInstr.lean ====
section
/-! SUPPORT. Statements made for every command, one lemma per constructor of `Instr`. -/

namespace Sys2Proof

set_option Elab.async false

/-- The word of a command is selected by the mask and the match of its own row (30_encoding.md R54). -/
def Laws.RowMatch.Statement (i : Instr) : Prop := encode i &&& (rowOf i).mask = (rowOf i).pattern

theorem Laws.RowMatch.modadd a0 a1 a2 a3 : Laws.RowMatch.Statement (.modadd a0 a1 a2 a3) := by
  rw [Laws.RowMatch.Statement, encode, rowOf, show (0xFF000FFE : Word) = mkWord 0xFF 0 0 0 0xFFE by decide, mkWord_and]
  simp [mselBits_and]
  decide
theorem Laws.RowMatch.modsub a0 a1 a2 a3 : Laws.RowMatch.Statement (.modsub a0 a1 a2 a3) := by
  rw [Laws.RowMatch.Statement, encode, rowOf, show (0xFF000FFE : Word) = mkWord 0xFF 0 0 0 0xFFE by decide, mkWord_and]
  simp [mselBits_and]
  decide
theorem Laws.RowMatch.modmul a0 a1 a2 a3 : Laws.RowMatch.Statement (.modmul a0 a1 a2 a3) := by
  rw [Laws.RowMatch.Statement, encode, rowOf, show (0xFF000FFE : Word) = mkWord 0xFF 0 0 0 0xFFE by decide, mkWord_and]
  simp [mselBits_and]
  decide
theorem Laws.RowMatch.montmul a0 a1 a2 a3 : Laws.RowMatch.Statement (.montmul a0 a1 a2 a3) := by
  rw [Laws.RowMatch.Statement, encode, rowOf, show (0xFF000FFE : Word) = mkWord 0xFF 0 0 0 0xFFE by decide, mkWord_and]
  simp [mselBits_and]
  decide
theorem Laws.RowMatch.modexp a0 a1 a2 a3 : Laws.RowMatch.Statement (.modexp a0 a1 a2 a3) := by
  rw [Laws.RowMatch.Statement, encode, rowOf, show (0xFF000FFE : Word) = mkWord 0xFF 0 0 0 0xFFE by decide, mkWord_and]
  simp [mselBits_and]
  decide
theorem Laws.RowMatch.modinv a0 a1 a2 : Laws.RowMatch.Statement (.modinv a0 a1 a2) := by
  rw [Laws.RowMatch.Statement, encode, rowOf, show (0xFF00FFFE : Word) = mkWord 0xFF 0 0 15 0xFFE by decide, mkWord_and]
  simp [mselBits_and]
  decide
theorem Laws.RowMatch.sqrt a0 a1 a2 : Laws.RowMatch.Statement (.sqrt a0 a1 a2) := by
  rw [Laws.RowMatch.Statement, encode, rowOf, show (0xFF00FFFE : Word) = mkWord 0xFF 0 0 15 0xFFE by decide, mkWord_and]
  simp [mselBits_and]
  decide
theorem Laws.RowMatch.cinit : Laws.RowMatch.Statement (.cinit) := by
  rw [Laws.RowMatch.Statement]; decide
theorem Laws.RowMatch.pchk a0 : Laws.RowMatch.Statement (.pchk a0) := by
  rw [Laws.RowMatch.Statement, encode, rowOf, show (0xFFF8FFFF : Word) = mkWord 0xFF 15 8 15 0xFFF by decide, mkWord_and]
  simp [pointBits_and]
  decide
theorem Laws.RowMatch.prec a0 a1 : Laws.RowMatch.Statement (.prec a0 a1) := by
  rw [Laws.RowMatch.Statement, encode, rowOf, show (0xFF80FFFF : Word) = mkWord 0xFF 8 0 15 0xFFF by decide, mkWord_and]
  simp [pointBits_and]
  decide
theorem Laws.RowMatch.padd a0 a1 a2 : Laws.RowMatch.Statement (.padd a0 a1 a2) := by
  rw [Laws.RowMatch.Statement, encode, rowOf, show (0xFF888FFF : Word) = mkWord 0xFF 8 8 8 0xFFF by decide, mkWord_and]
  simp [pointBits_and]
  decide
theorem Laws.RowMatch.pdbl a0 a1 : Laws.RowMatch.Statement (.pdbl a0 a1) := by
  rw [Laws.RowMatch.Statement, encode, rowOf, show (0xFF88FFFF : Word) = mkWord 0xFF 8 8 15 0xFFF by decide, mkWord_and]
  simp [pointBits_and]
  decide
theorem Laws.RowMatch.smul a0 a1 a2 : Laws.RowMatch.Statement (.smul a0 a1 a2) := by
  rw [Laws.RowMatch.Statement, encode, rowOf, show (0xFF880FFF : Word) = mkWord 0xFF 8 8 0 0xFFF by decide, mkWord_and]
  simp [pointBits_and]
  decide
theorem Laws.RowMatch.keygen a0 a1 : Laws.RowMatch.Statement (.keygen a0 a1) := by
  rw [Laws.RowMatch.Statement, encode, rowOf, show (0xFF08FFFF : Word) = mkWord 0xFF 0 8 15 0xFFF by decide, mkWord_and]
  simp [pointBits_and]
  decide
theorem Laws.RowMatch.hreset : Laws.RowMatch.Statement (.hreset) := by
  rw [Laws.RowMatch.Statement]; decide
theorem Laws.RowMatch.happend a0 : Laws.RowMatch.Statement (.happend a0) := by
  rw [Laws.RowMatch.Statement, encode, rowOf, show (0xFFFFF000 : Word) = mkWord 0xFF 15 15 15 0x0 by decide, mkWord_and]
  simp
  decide
theorem Laws.RowMatch.hdigest a0 : Laws.RowMatch.Statement (.hdigest a0) := by
  rw [Laws.RowMatch.Statement, encode, rowOf, show (0xFF0FFFFF : Word) = mkWord 0xFF 0 15 15 0xFFF by decide, mkWord_and]
  simp
  decide
theorem Laws.RowMatch.sign a0 a1 a2 : Laws.RowMatch.Statement (.sign a0 a1 a2) := by
  rw [Laws.RowMatch.Statement, encode, rowOf, show (0xFF000FFF : Word) = mkWord 0xFF 0 0 0 0xFFF by decide, mkWord_and]
  simp
  decide
theorem Laws.RowMatch.verify a0 a1 a2 : Laws.RowMatch.Statement (.verify a0 a1 a2) := by
  rw [Laws.RowMatch.Statement, encode, rowOf, show (0xFF008FFF : Word) = mkWord 0xFF 0 0 8 0xFFF by decide, mkWord_and]
  simp [pointBits_and]
  decide

end Sys2Proof
end

