-- ==== Sys2Proof/Laws/Registers.lean ====
section
/-! SUPPORT. Read after write for scalar registers, point registers and the words of a wide register. -/

namespace Sys2Proof.Machine

@[simp] theorem readScalar_writeScalar_same (s : State) (i : SReg) (v : Wide) :
    readScalar (writeScalar s i v) i = v := by
  simp [readScalar]

theorem readScalar_writeScalar_other (s : State) (i j : SReg) (v : Wide) (h : j ≠ i) :
    readScalar (writeScalar s i v) j = readScalar s j := by
  have : i.toNat ≠ j.toNat := fun e => h (BitVec.eq_of_toNat_eq e.symm)
  simp [readScalar, Vector.getElem_set_ne _ _ this]

/-- What a register reads as after a write of an integer that fits. -/
theorem scalar_setScalar_same (s : State) (i : SReg) (v : Nat) (h : v < 2 ^ 256) :
    scalar (setScalar s i v) i = v := by
  simpa [scalar, setScalar] using h

theorem readScalar_setScalar_other (s : State) (i j : SReg) (v : Nat) (h : j ≠ i) :
    readScalar (setScalar s i v) j = readScalar s j :=
  readScalar_writeScalar_other s i j _ h

@[simp] theorem readPointReg_writePointReg_same (s : State) (i : PReg) (r : PointReg) :
    readPointReg (writePointReg s i r) i = r := by
  simp [readPointReg]

theorem readPointReg_writePointReg_other (s : State) (i j : PReg) (r : PointReg) (h : j ≠ i) :
    readPointReg (writePointReg s i r) j = readPointReg s j := by
  have : i.toNat ≠ j.toNat := fun e => h (BitVec.eq_of_toNat_eq e.symm)
  simp [readPointReg, Vector.getElem_set_ne _ _ this]

@[simp] theorem readPointReg_setPoint_same (s : State) (i : PReg) (v : Point) :
    readPointReg (setPoint s i v) i = regOfPoint v :=
  readPointReg_writePointReg_same s i _

theorem readPointReg_setPoint_other (s : State) (i j : PReg) (v : Point) (h : j ≠ i) :
    readPointReg (setPoint s i v) j = readPointReg s j :=
  readPointReg_writePointReg_other s i j _ h

/-- The register image of infinity (42_curve.md R103). -/
@[simp] theorem regOfPoint_infinity : regOfPoint .infinity = { x := 0, y := 0, inf := true } := rfl

/-- A point that fits survives being written and read. -/
theorem pointOfReg_regOfPoint (v : Point) (hi : v.inf = false) (hx : v.x < 2 ^ 256) (hy : v.y < 2 ^ 256) :
    pointOfReg (regOfPoint v) = v := by
  obtain ⟨x, y, inf⟩ := v
  simp_all [pointOfReg, regOfPoint, Nat.mod_eq_of_lt]

theorem writeScalar_readScalar (s : State) (i : SReg) : writeScalar s i (readScalar s i) = s := by
  simp [writeScalar, readScalar]

/-- Bit `k` of the value with word `j` replaced: the new word's bit inside the word, the old bit outside (20_memory.md R34). -/
theorem withLane_getLsbD (v : Wide) (j : BitVec 3) (w : Word) (k : Nat) (hk : k < 256) :
    (withLane v j w).getLsbD k =
      if laneShift j ≤ k ∧ k < laneShift j + 32 then w.getLsbD (k - laneShift j) else v.getLsbD k := by
  have mask : ∀ i, (0xFFFFFFFF : Wide).getLsbD i = decide (i < 32) := by
    intro i
    have e : (0xFFFFFFFF : Wide) = (BitVec.allOnes 32).zeroExtend 256 := by decide
    rw [e, BitVec.getLsbD_setWidth, BitVec.getLsbD_allOnes]
    by_cases h : i < 32
    · have : i < 256 := by omega
      simp [h, this]
    · simp [h]
  simp only [withLane, BitVec.getLsbD_or, BitVec.getLsbD_and, BitVec.getLsbD_not, BitVec.getLsbD_shiftLeft, mask,
    BitVec.getLsbD_setWidth]
  by_cases h1 : k < laneShift j
  · have : ¬ laneShift j ≤ k := by omega
    simp [h1, hk, this]
  · by_cases h2 : k < laneShift j + 32
    · have a : laneShift j ≤ k := by omega
      have b : k - laneShift j < 32 := by omega
      have c : k - laneShift j < 256 := by omega
      simp [h1, h2, hk, a, b, c]
    · have a : laneShift j ≤ k := by omega
      have b : ¬ k - laneShift j < 32 := by omega
      have c : w.getLsbD (k - laneShift j) = false := BitVec.getLsbD_of_ge _ _ (by omega)
      simp [h1, h2, hk, b, c]

theorem laneShift_lt (j : BitVec 3) : laneShift j + 32 ≤ 256 := by
  simp only [laneShift]; omega

theorem laneOf_withLane_same (v : Wide) (j : BitVec 3) (w : Word) : laneOf (withLane v j w) j = w := by
  apply BitVec.eq_of_getLsbD_eq
  intro k hk
  have hj := laneShift_lt j
  rw [laneOf, BitVec.getLsbD_extractLsb', withLane_getLsbD _ _ _ _ (by omega)]
  simp [hk]

theorem laneOf_withLane_other (v : Wide) (i j : BitVec 3) (w : Word) (h : j ≠ i) :
    laneOf (withLane v i w) j = laneOf v j := by
  apply BitVec.eq_of_getLsbD_eq
  intro k hk
  have hj := laneShift_lt j
  have hne : i.toNat ≠ j.toNat := fun e => h (BitVec.eq_of_toNat_eq e.symm)
  have hi := i.isLt
  have hj' := j.isLt
  rw [laneOf, laneOf, BitVec.getLsbD_extractLsb', BitVec.getLsbD_extractLsb', withLane_getLsbD _ _ _ _ (by omega)]
  have : ¬(laneShift i ≤ laneShift j + k ∧ laneShift j + k < laneShift i + 32) := by
    simp only [laneShift]; omega
  simp [this]

end Sys2Proof.Machine
end

