-- ==== Sys2Proof/Laws/Shared.lean ====
section
/-! SUPPORT. For each shared operation of the meanings, what it does and, once, everything it can do. -/

namespace Sys2Proof.Machine

/-! ## Results as outcomes -/

@[simp] theorem raiseFault_eq (c : FaultCause) (s : State) : raiseFault c s = .next (takeFault c s) := rfl

theorem Result.next_inj {s t : State} : (Host.Outcome.next s : Result) = .next t ↔ s = t := by
  constructor
  · intro h; cases h; rfl
  · intro h; rw [h]

/-! ## Field commands -/

theorem fieldCommand_bad {s : State} {rd : SReg} {m : ModSel} {bad : Nat → Bool} {f : Nat → Except FaultCause Nat}
    (h : bad (selectedModulus s m) = true) : fieldCommand s rd m bad f = .next (takeFault .modulus s) := by
  simp [fieldCommand, h]

theorem fieldCommand_ok {s : State} {rd : SReg} {m : ModSel} {bad : Nat → Bool} {f : Nat → Except FaultCause Nat} {v : Nat}
    (h : bad (selectedModulus s m) = false) (hf : f (selectedModulus s m) = .ok v) :
    fieldCommand s rd m bad f = .next (setScalar s rd v) := by
  simp [fieldCommand, h, hf]

theorem fieldCommand_error {s : State} {rd : SReg} {m : ModSel} {bad : Nat → Bool} {f : Nat → Except FaultCause Nat}
    {c : FaultCause} (h : bad (selectedModulus s m) = false) (hf : f (selectedModulus s m) = .error c) :
    fieldCommand s rd m bad f = .next (takeFault c s) := by
  simp [fieldCommand, h, hf]

/-- Everything a field command can do: write one scalar register, or fault. -/
theorem fieldCommand_cases (s : State) (rd : SReg) (m : ModSel) (bad : Nat → Bool) (f : Nat → Except FaultCause Nat) :
    (∃ v, fieldCommand s rd m bad f = .next (setScalar s rd v) ∧ bad (selectedModulus s m) = false ∧
      f (selectedModulus s m) = .ok v) ∨
    (∃ c, fieldCommand s rd m bad f = .next (takeFault c s)) := by
  cases hb : bad (selectedModulus s m) with
  | true => exact .inr ⟨_, fieldCommand_bad hb⟩
  | false =>
    cases hf : f (selectedModulus s m) with
    | ok v => exact .inl ⟨v, fieldCommand_ok hb hf, rfl, rfl⟩
    | error c => exact .inr ⟨c, fieldCommand_error hb hf⟩

/-! ## Curve commands -/

theorem withCurve_on {s : State} {k : Curve → Result} (h : s.curveOk = true) : withCurve s k = k (curveOf s.params) := by
  simp [withCurve, h]

theorem withCurve_off {s : State} {k : Curve → Result} (h : s.curveOk = false) :
    withCurve s k = .next (takeFault .noCurve s) := by
  simp [withCurve, h]

/-- Everything the end of a point command can do: write one point register, or fault. -/
theorem finishPoint_cases (s : State) (pd : PReg) (r : Except FaultCause Point) :
    (∃ v, r = .ok v ∧ finishPoint s pd r = .next (setPoint s pd v)) ∨
    (∃ c, r = .error c ∧ finishPoint s pd r = .next (takeFault c s)) := by
  cases r with
  | ok v => exact .inl ⟨v, rfl, rfl⟩
  | error c => exact .inr ⟨c, rfl, rfl⟩

/-- Everything `invmod` can answer (40_field_arithmetic.md R78). -/
theorem invmod_cases (v : Int) (m : Nat) :
    (Nat.gcd (euclidMod v m) m = 1 ∧ ∃ u, invmod v m = .ok u) ∨
    (Nat.gcd (euclidMod v m) m ≠ 1 ∧ invmod v m = .error .notInvertible) := by
  by_cases h : Nat.gcd (euclidMod v m) m = 1
  · exact .inl ⟨h, _, if_pos h⟩
  · exact .inr ⟨h, if_neg h⟩

/-- The first failing check of `add` decides (42_curve.md R104, 60_exceptions.md R153). -/
theorem add_range {c : Curve} {P Q : Point} (h : ¬(c.canonical P = true ∧ c.canonical Q = true)) :
    c.add P Q = .error .range := by
  rw [Curve.add, if_pos h]

theorem add_notOnCurve {c : Curve} {P Q : Point} (h : c.canonical P = true ∧ c.canonical Q = true)
    (h' : ¬(c.contains P = true ∧ c.contains Q = true)) : c.add P Q = .error .notOnCurve := by
  rw [Curve.add, if_neg (not_not.mpr h), if_pos h']

theorem add_infinity_left {c : Curve} {P Q : Point} (h : c.canonical P = true ∧ c.canonical Q = true)
    (h' : c.contains P = true ∧ c.contains Q = true) (hi : P.inf = true) : c.add P Q = .ok Q := by
  rw [Curve.add, if_neg (not_not.mpr h), if_neg (not_not.mpr h'), if_pos hi]

/-- `smul(P, 0)` is infinity, and `P` is not looked at (42_curve.md R105 note c). -/
theorem smul_zero (c : Curve) (P : Point) : c.smul P 0 = .ok .infinity := rfl

/-! ## The random port -/

/-- Everything a draw can do (10_state.md R24). -/
theorem draw_cases (p : RandomPort) :
    (∃ k q, draw p = .answered k q ∧ q.drawn = p.drawn + 1 ∧ q.answers = p.answers.tail ∧ k < 2 ^ 256) ∨
    (∃ q, draw p = .silent q ∧ q.drawn = p.drawn ∧ p.answers = .silent :: q.answers) := by
  obtain ⟨answers, drawn⟩ := p
  match answers with
  | [] => exact .inl ⟨_, _, rfl, rfl, rfl, BitVec.isLt _⟩
  | .value k :: rest => exact .inl ⟨_, _, rfl, rfl, rfl, k.isLt⟩
  | .silent :: rest => exact .inr ⟨_, rfl, rfl, rfl⟩

/-- Everything the end of SIGN can do (44_ecdsa.md R141). -/
theorem finishSign_cases (s : State) (rdR rdS : SReg) (e : Signing) :
    (∃ r sg q, e = .signed r sg q ∧
      finishSign s rdR rdS e = .next (setScalar (setScalar { s with port := q } rdR r) rdS sg)) ∨
    (∃ c q, e = .faulted c q ∧ finishSign s rdR rdS e = .next (takeFault c { s with port := q })) ∨
    (∃ q, e = .silent q ∧ finishSign s rdR rdS e = .next (awaitSource q s)) := by
  cases e with
  | signed r sg q => exact .inl ⟨r, sg, q, rfl, rfl⟩
  | faulted c q => exact .inr (.inl ⟨c, q, rfl, rfl⟩)
  | silent q => exact .inr (.inr ⟨q, rfl, rfl⟩)

/-! ## The digest -/

/-- The padded tail is whole blocks, so the check of 43_sha256.md R125 never fails. -/
theorem paddedTail_length (d : DigestState) : (paddedTail d).length % 64 = 0 := by
  simp [paddedTail, bytesOf64, zerosNeeded]; omega

theorem digestValue_ok (d : DigestState) :
    digestValue d = .ok (wideOfWords (compressBlocks ((paddedTail d).length / 64) d.h (paddedTail d))) := by
  simp [digestValue, paddedTail_length]

/-- Appending one byte (43_sha256.md R126). -/
theorem appendByte_hlen (d : DigestState) (v : Byte) : (appendByte d v).hlen = d.hlen + 1 := by
  unfold appendByte; split <;> rfl

theorem appendBytes_append (d : DigestState) (xs ys : List Byte) :
    appendBytes d (xs ++ ys) = appendBytes (appendBytes d xs) ys := List.foldl_append

end Sys2Proof.Machine
end

