-- ==== Sys2Proof/Laws/Step.lean ====
section
/-! SUPPORT. What a step does, by the next host event. -/

namespace Sys2Proof.Machine

theorem step_idle {s : State} (hw : s.waiting = false) (h : s.pending = []) : step s = .next s := by
  simp only [step, runPending, hw, if_neg Bool.false_ne_true, acceptEvent, h]

theorem step_event {s : State} {e : HostEvent} {rest : List HostEvent} (hw : s.waiting = false) (h : s.pending = e :: rest) :
    step s = hostEvent e { s with pending := rest } := by
  rw [step, runPending, if_neg (by rw [hw]; exact Bool.false_ne_true), acceptEvent]
  split
  · exact absurd (‹s.pending = []›.symm.trans h) (by simp)
  · cases ‹s.pending = _ :: _›.symm.trans h; rfl

/-- The word put in by `withFetchWord` is issued by the very next step. -/
theorem step_withFetchWord {s : State} (hw : s.waiting = false) (nbits w : Nat) :
    step (s.withFetchWord nbits w) = hostEvent (commandEvent (BitVec.ofNat 32 (w % 2 ^ nbits))) s :=
  step_event hw rfl

/-- Everything the search for a reset can find: there is none, or the first one is taken and the events before it wait. -/
theorem takeReset_cases (es : List HostEvent) :
    (HostEvent.hardReset ∉ es ∧ takeReset es = none) ∨
    (∃ before rest, es = before ++ HostEvent.hardReset :: rest ∧ HostEvent.hardReset ∉ before ∧
      takeReset es = some (before ++ rest)) := by
  induction es with
  | nil => exact .inl ⟨List.not_mem_nil, rfl⟩
  | cons e es ih =>
    cases e with
    | hardReset => exact .inr ⟨[], es, rfl, List.not_mem_nil, rfl⟩
    | _ =>
      obtain ⟨hn, h⟩ | ⟨before, rest, rfl, hn, h⟩ := ih
      · exact .inl ⟨by simp [hn], by simp [takeReset, h]⟩
      · exact .inr ⟨_ :: before, rest, rfl, by simp [hn], by simp [takeReset, h]⟩

/-- A waiting command is abandoned by the first reset to come, without an answer. -/
theorem step_waiting_reset {s : State} {rest : List HostEvent} (hw : s.waiting = true) (h : takeReset s.pending = some rest) :
    step s = .next (resetBlock { s with pending := rest }) := by
  rw [step, runPending, if_pos hw, abandonCommand]
  split
  · cases ‹takeReset s.pending = some _›.symm.trans h; rfl
  · exact absurd (‹takeReset s.pending = none›.symm.trans h) (by simp)

theorem step_waiting_stuck {s : State} (hw : s.waiting = true) (h : takeReset s.pending = none) : step s = .fault .portSilent := by
  simp only [step, runPending, hw, if_pos, abandonCommand, h]

theorem completeWith_done {r : BusReply} {s : State} (h : s.waiting = false) : completeWith r (.next s) = .next (reply r s) := by
  simp [completeWith, h]

theorem completeWith_waiting {r : BusReply} {s : State} (h : s.waiting = true) : completeWith r (.next s) = .next s := by
  simp [completeWith, h]

@[simp] theorem completeWith_fault (r : BusReply) (f : Fault) : completeWith r (.fault f) = .fault f := rfl

theorem busRegister_cmd : busRegister 0x000 = some .cmd := rfl
theorem busRegister_ctrl : busRegister 0x010 = some .ctrl := rfl

/-- A write to `CMD` outside the FAULT state issues the word (30_encoding.md R50). -/
theorem busWrite_cmd {s : State} (w : Word) (h : s.fault = false) : busWrite 0x000 w s = completeWith .done (issue w s) := by
  rw [busWrite, busRegister_cmd]
  simp [writeRegister, h]

/-- A write to `CTRL`, in any state (70_reset_and_hazards.md R181). -/
theorem busWrite_ctrl (s : State) (v : Word) : busWrite 0x010 v s = .next (reply .done (writeCtrl v s)) := by
  rw [busWrite, busRegister_ctrl]

theorem issue_command {w : Word} {i : Instr} {s : State} (h : decode w = .command i) :
    issue w s = exec i (latchCommand w s) := by
  rw [issue, h]

theorem issue_illegal {w : Word} {why : IllegalWord} {s : State} (h : decode w = .illegal why) :
    issue w s = .next (takeFault .illegalCmd (latchCommand w s)) := by
  rw [issue, h, raiseFault_eq]

/-- Everything a write to a register but `CTRL` can do. -/
theorem writeRegister_cases (r : BusReg) (v : Word) (s : State) :
    writeRegister r v s = .next (reply .busError s) ∨
    (s.fault = false ∧ r = .cmd ∧ writeRegister r v s = completeWith .done (issue v s)) ∨
    (s.fault = false ∧ ∃ t, storeRegister s r v = some t ∧ writeRegister r v s = .next (reply .done t)) := by
  cases hf : s.fault with
  | true => exact .inl (by simp [writeRegister, hf])
  | false =>
    by_cases hc : r = .cmd
    · subst hc
      exact .inr (.inl ⟨rfl, rfl, by simp [writeRegister, hf]⟩)
    · have e : writeRegister r v s = storeAnswer s (storeRegister s r v) := by
        cases r <;> first | exact absurd rfl hc | simp [writeRegister, hf]
      rw [e]
      cases storeRegister s r v with
      | some t => exact .inr (.inr ⟨rfl, t, rfl, rfl⟩)
      | none => exact .inl rfl

end Sys2Proof.Machine
end

