-- ==== Sys2Proof/Tests/Slice0.lean ====
section
/-! SUPPORT. The author's tests: the well-formedness smoke test, one decoding per command from words written out in the spec, small
one-step tests with expected values from 95_test_vectors.md and the rules' own examples, and a named witness for the hypotheses of
every obligation that has some. -/

namespace Sys2Proof.Tests

set_option Elab.async false

open Sys2Proof.Machine Sys2Proof.Claims

/-! ## Helpers -/

/-- The result is a next state that passes a check. -/
def nextIs (r : Result) (f : State → Bool) : Bool :=
  match r with
  | .next t => f t
  | .fault _ => false
  | .refused _ => false

theorem exists_of_nextIs {r : Result} {f : State → Bool} (h : nextIs r f = true) : ∃ t, r = .next t ∧ f t = true := by
  cases r with
  | next t => exact ⟨t, rfl, h⟩
  | fault _ => exact absurd h (by simp [nextIs])
  | refused _ => exact absurd h (by simp [nextIs])

/-- The reset state with two moduli and the scalars `S1`, `S2`. -/
def fieldState (p n a b : Nat) : State :=
  withScalar (withScalar { State.reset with params := { State.reset.params with cp := BitVec.ofNat 256 p, cn := BitVec.ofNat 256 n } }
    1 a) 2 b

/-- The reset state with curve parameters. -/
def paramState (a b p n gx gy : Nat) : State :=
  { State.reset with
    params := {
      ca := BitVec.ofNat 32 a, cb := BitVec.ofNat 32 b, cp := BitVec.ofNat 256 p, cn := BitVec.ofNat 256 n,
      gx := BitVec.ofNat 256 gx, gy := BitVec.ofNat 256 gy, ginf := false } }

/-- The same with the curve constructed. -/
def curveState (a b p n gx gy : Nat) : State := { paramState a b p n gx gy with curveOk := true }

/-- The toy curve of 44_ecdsa.md R141: `y² = x³ + 2x + 2` over 17, `G` = (5, 1) of order 19. -/
def toy : State := curveState 2 2 17 19 5 1

/-- D0's curve: `y² = x³ + 497x + 1768` over 9739. -/
def big : State := curveState 497 1768 9739 9735 5323 5438

/-- The message `"abc"` appended. -/
def abcDigest : DigestState := appendBytes .initial [0x61, 0x62, 0x63]

/-- A state whose random port has queued answers. -/
def withDraws (s : State) (ks : List Nat) : State := { s with port := { answers := ks.map fun k => .value (BitVec.ofNat 256 k), drawn := 0 } }

/-- The signing example of 44_ecdsa.md R141: key 7 in `S0`, its public key in `P0`, `"abc"` appended, one draw of 10. -/
def signing : State := withDraws (withPoint (withScalar { toy with digest := abcDigest } 0 7) 0 (affine 0 6)) [10]

/-- A state in which KEYGEN waits for a source that does not answer, with a read and a reset to come. -/
def held : State := { awaitSource { answers := [], drawn := 0 } toy with pending := [.read 0x004, .hardReset] }

/-- A state in which one host event is to come. -/
def withEvent (s : State) (e : HostEvent) : State := { s with pending := [e] }

/-! ## Well-formedness (30_encoding.md R53, R55) -/

theorem test_wellFormed_happend : (Instr.happend 256).wellFormed = true ∧ (Instr.happend 257).wellFormed = false := by decide
theorem test_wellFormed_sign : (Instr.sign 1 2 1).wellFormed = true ∧ (Instr.sign 1 1 0).wellFormed = false := by decide

/-! ## Decoding: words of 30_encoding.md R58 and of the examples of the commands' own rules -/

theorem test_decode_modadd : decode 0x01312000 = .command (.modadd 3 1 2 .p) := by decide
theorem test_decode_modsub : decode 0x02321000 = .command (.modsub 3 2 1 .p) := by decide
theorem test_decode_modmul : decode 0x03312001 = .command (.modmul 3 1 2 .n) := by decide
theorem test_decode_montmul : decode 0x04411000 = .command (.montmul 4 1 1 .p) := by decide
theorem test_decode_modexp : decode 0x05312000 = .command (.modexp 3 1 2 .p) := by decide
theorem test_decode_modinv : decode 0x06650001 = .command (.modinv 6 5 .n) := by decide
theorem test_decode_sqrt : decode 0x07A60000 = .command (.sqrt 10 6 .p) := by decide
theorem test_decode_cinit : decode 0x10000000 = .command .cinit := by decide
theorem test_decode_pchk : decode 0x11010000 = .command (.pchk 1) := by decide
theorem test_decode_prec : decode 0x12120000 = .command (.prec 1 2) := by decide
theorem test_decode_padd : decode 0x13201000 = .command (.padd 2 0 1) := by decide
theorem test_decode_pdbl : decode 0x14610000 = .command (.pdbl 6 1) := by decide
theorem test_decode_smul : decode 0x15208000 = .command (.smul 2 0 8) := by decide
theorem test_decode_keygen : decode 0x16800000 = .command (.keygen 8 0) := by decide
theorem test_decode_hreset : decode 0x20000000 = .command .hreset := by decide
theorem test_decode_happend : decode 0x21000003 = .command (.happend 3) := by decide
theorem test_decode_hdigest : decode 0x22500000 = .command (.hdigest 5) := by decide
theorem test_decode_sign : decode 0x30120000 = .command (.sign 1 2 0) := by decide
theorem test_decode_verify : decode 0x31110000 = .command (.verify 1 1 0) := by decide

/-- 95_test_vectors.md V80: illegal words. -/
theorem test_decode_illegal :
    decode 0x00000000 = .illegal .opcode ∧ decode 0xFFFFFFFF = .illegal .opcode ∧ decode 0x01312002 = .illegal .unusedField ∧
    decode 0x21000101 = .illegal .length ∧ decode 0x30110000 = .illegal .sameDestination := by decide

/-- The host's interface: a word placed by `withFetchWord` is what the decoder reads and what the next step issues. -/
theorem test_withFetchWord : decodeTableWord 32 0x20000000 = some .hreset ∧
    (State.reset.withFetchWord 32 0x20000000).pending = [.write 0x000 0x20000000] := by decide

/-! ## Field arithmetic (examples of 40_field_arithmetic.md; 95_test_vectors.md V20, V21, V23) -/

theorem test_modadd : nextIs (exec (.modadd 3 1 2 .p) (fieldState 9739 9735 9000 9000)) (fun t => scalar t 3 == 8261) = true := by
  decide +kernel
theorem test_modadd_no_wrap : nextIs (exec (.modadd 3 1 2 .p) (fieldState 9739 0 (2 ^ 256 - 1) (2 ^ 256 - 1)))
    (fun t => scalar t 3 == 2626) = true := by decide +kernel
theorem test_modsub : nextIs (exec (.modsub 3 1 2 .p) (fieldState 9739 9735 5 7)) (fun t => scalar t 3 == 9737) = true := by
  decide +kernel
theorem test_modmul : nextIs (exec (.modmul 3 1 2 .p) (fieldState 9739 9735 5323 5438)) (fun t => scalar t 3 == 2166) = true := by
  decide +kernel
theorem test_montmul : nextIs (exec (.montmul 3 1 2 .p) (fieldState 9739 9735 5323 5438)) (fun t => scalar t 3 == 224) = true := by
  decide +kernel
theorem test_montmul_even : nextIs (exec (.montmul 4 1 1 .p) (fieldState 9738 0 5 0)) (fun t => t.fault && t.fcause == 0x03) = true := by
  decide +kernel
theorem test_modexp : nextIs (exec (.modexp 3 1 2 .p) (fieldState 9739 9735 5323 1337)) (fun t => scalar t 3 == 8460) = true := by
  decide +kernel
theorem test_modexp_zero : nextIs (exec (.modexp 3 1 2 .p) (fieldState 9739 9735 0 0)) (fun t => scalar t 3 == 1) = true := by
  decide +kernel
theorem test_modinv : nextIs (exec (.modinv 3 1 .p) (fieldState 9739 9735 5323 0)) (fun t => scalar t 3 == 6711) = true := by
  decide +kernel
theorem test_modinv_none : nextIs (exec (.modinv 3 1 .n) (fieldState 9739 9735 3 0))
    (fun t => t.fault && t.fcause == 0x07 && scalar t 3 == 0) = true := by decide +kernel

/-! ## Square root (95_test_vectors.md V30 to V35) -/

theorem test_sqrt_loop : nextIs (exec (.sqrt 3 1 .p) (fieldState 17 0 13 0)) (fun t => t.t && scalar t 3 == 8) = true := by
  decide +kernel
theorem test_sqrt_none : nextIs (exec (.sqrt 1 1 .p) (fieldState 9739 0 1337 0)) (fun t => !t.t && scalar t 1 == 1337) = true := by
  decide +kernel

/-! ## Curve (examples of 42_curve.md; 95_test_vectors.md V40 to V52) -/

theorem test_cinit : nextIs (exec .cinit (paramState 2 2 17 19 5 1)) (fun t => t.curveOk && !t.fault) = true := by decide +kernel
theorem test_cinit_order : nextIs (exec .cinit (paramState 2 2 17 18 5 1)) (fun t => t.fcause == 0x06 && !t.curveOk) = true := by
  decide +kernel
theorem test_pchk : nextIs (exec (.pchk 0) (withPoint big 0 (affine 15062 5438))) (fun t => t.t) = true := by decide +kernel
theorem test_pchk_no : nextIs (exec (.pchk 1) (withPoint { big with t := true } 1 (affine 5323 5439))) (fun t => !t.t) = true := by
  decide +kernel
theorem test_prec : nextIs (exec (.prec 1 2) (withScalar big 2 5274)) (fun t => t.t && readPointReg t 1 == affine 5274 6898) = true := by
  decide +kernel
theorem test_prec_none : nextIs (exec (.prec 1 2) (withScalar { big with t := true } 2 5))
    (fun t => !t.t && readPointReg t 1 == infinityImage) = true := by decide +kernel
theorem test_padd : nextIs (exec (.padd 2 0 1) (withPoint (withPoint big 0 (affine 5274 2841)) 1 (affine 8669 740)))
    (fun t => readPointReg t 2 == affine 1024 4440) = true := by decide +kernel
theorem test_padd_opposite : nextIs (exec (.padd 0 0 1) (withPoint (withPoint big 0 (affine 5323 5438)) 1 (affine 5323 4301)))
    (fun t => readPointReg t 0 == infinityImage) = true := by decide +kernel
theorem test_pdbl : nextIs (exec (.pdbl 2 0) (withPoint big 0 (affine 5274 2841))) (fun t => readPointReg t 2 == affine 7284 2107) = true := by
  decide +kernel
theorem test_pdbl_vertical : nextIs (exec (.pdbl 2 0) (withPoint (curveState 1 0 13 2 0 0) 0 (affine 0 0)))
    (fun t => readPointReg t 2 == infinityImage) = true := by decide +kernel
theorem test_smul : nextIs (exec (.smul 2 0 1) (withPoint (withScalar big 1 1337) 0 (affine 5323 5438)))
    (fun t => readPointReg t 2 == affine 1089 6931) = true := by decide +kernel
theorem test_smul_off_curve : nextIs (exec (.smul 4 3 1) (withPoint (withScalar big 1 1) 3 (affine 1 1)))
    (fun t => t.fcause == 0x05 && readPointReg t 4 == infinityImage) = true := by decide +kernel
theorem test_keygen : nextIs (exec (.keygen 0 0) (withDraws toy [7]))
    (fun t => scalar t 0 == 7 && readPointReg t 0 == affine 0 6 && t.port.drawn == 1) = true := by decide +kernel
theorem test_keygen_range : nextIs (exec (.keygen 0 0) (withDraws toy [19])) (fun t => t.fcause == 0x0B && t.port.drawn == 1) = true := by
  decide +kernel

/-! ## Digest (examples of 43_sha256.md; 95_test_vectors.md V1, V2) -/

theorem test_hreset : nextIs (exec .hreset { toy with digest := abcDigest }) (fun t => t.digest.h[0] == 0x6a09e667 && t.digest.hlen == 0) = true := by
  decide +kernel
theorem test_happend : nextIs (exec (.happend 3) (writeMsgWord State.reset 0 0x61626300))
    (fun t => t.digest.hbuf == [0x61, 0x62, 0x63] && t.digest.hlen == 3 && t.digest.h == iv) = true := by decide +kernel
theorem test_hdigest_abc : nextIs (exec (.hdigest 5) { State.reset with digest := abcDigest })
    (fun t => scalar t 5 == 0xBA7816BF8F01CFEA414140DE5DAE2223B00361A396177A9CB410FF61F20015AD) = true := by decide +kernel
theorem test_hdigest_empty : nextIs (exec (.hdigest 5) State.reset)
    (fun t => scalar t 5 == 0xE3B0C44298FC1C149AFBF4C8996FB92427AE41E4649B934CA495991B7852B855) = true := by decide +kernel
theorem test_hex64 : hex64 0xab = "00000000000000000000000000000000000000000000000000000000000000ab" := by decide +kernel

/-! ## Signature (example of 44_ecdsa.md R141; 95_test_vectors.md V60, V61) -/

theorem test_sign : nextIs (exec (.sign 1 2 0) signing) (fun t => scalar t 1 == 7 && scalar t 2 == 9 && t.port.drawn == 1) = true := by
  decide +kernel
theorem test_sign_key : nextIs (exec (.sign 1 2 0) (withScalar signing 0 19)) (fun t => t.fcause == 0x04 && t.port.drawn == 0) = true := by
  decide +kernel
theorem test_verify : nextIs (exec (.verify 1 2 0) (withScalar (withScalar signing 1 7) 2 9)) (fun t => t.t) = true := by decide +kernel
theorem test_verify_no : nextIs (exec (.verify 2 1 0) (withScalar (withScalar signing 1 7) 2 9)) (fun t => !t.t && !t.fault) = true := by
  decide +kernel

/-! ## The bus (20_memory.md R33, R34, R36, R44) -/

theorem test_step_write_top_word : nextIs (step (withEvent State.reset (.write 0x220 1))) (fun t => scalar t 1 == 2 ^ 224) = true := by
  decide +kernel
theorem test_step_write_lowest_word : nextIs (step (withEvent State.reset (.write 0x23C 5))) (fun t => scalar t 1 == 5) = true := by
  decide +kernel
theorem test_step_locked : nextIs (step (withEvent toy (.write 0x020 1))) (fun t => t.params.ca == 2 && t.replies == [.busError]) = true := by
  decide +kernel
theorem test_step_no_curve : nextIs (step (withEvent State.reset (.write 0x000 0x11000000)))
    (fun t => t.fault && t.fcause == 0x02 && t.finfo == 0x11000000 && t.replies == [.done]) = true := by decide +kernel
theorem test_step_soft_reset : nextIs (step (withEvent (faultState 0x02 toy) (.write 0x010 1)))
    (fun t => !t.fault && !t.curveOk && t.params.cp == 0) = true := by decide +kernel
/-- 70_reset_and_hazards.md R186: a source that does not answer leaves KEYGEN waiting, its bus write outstanding. -/
theorem test_step_keygen_silent :
    nextIs (step (withEvent { toy with port := { answers := [.silent], drawn := 0 } } (.write 0x000 0x16000000)))
      (fun t => t.waiting && !t.fault && t.replies == [] && scalar t 0 == 0) = true := by decide +kernel

/-- 70_reset_and_hazards.md R180: the reset abandons the waiting command; the read made meanwhile waits. -/
theorem test_step_held_reset :
    nextIs (step held) (fun t => !t.waiting && !t.curveOk && t.replies == [] && t.pending == [.read 0x004]) = true := by decide +kernel
theorem test_wrs_lanes : (wrs 1 5).length = 8 ∧ wrs 1 5 = (readWords 0x220 7).map (fun e => match e with
    | .read off => .write off 0
    | e => e) ++ [.write 0x23C 5] := by decide +kernel

/-- 30_encoding.md R57. -/
theorem test_owner : ownerOf (.keygen 0 0) = .ecdsaSignUnit ∧ ownerOf (.pdbl 0 0) = .eccPointDouble := by decide

/-! ## Witnesses: for each obligation with hypotheses, states and operands that meet them, clause by clause -/

theorem witness_DecodeOfEncode : (Instr.happend 256).wellFormed = true ∧ (Instr.sign 0 15 0).wellFormed = true := by decide
theorem witness_EncodeOfDecode : decode 0x21000100 = .command (.happend 256) ∧ decode 0x30F0F000 = .command (.sign 15 0 15) := by decide
theorem witness_TableSelectsExactlyLegalWords :
    (∃ r ∈ opcodeTable, rowSelects r 0x21000100 = true) ∧ ¬ (∃ r ∈ opcodeTable, rowSelects r 0x21000101 = true) ∧
    decode 0x31FF7000 = .command (.verify 15 15 7) := by decide +kernel
theorem witness_StepRunsDecodedCommand :
    (withEvent State.reset (.write 0x000 0x20000000)).waiting = false ∧
    (withEvent State.reset (.write 0x000 0x20000000)).pending = .write 0x000 0x20000000 :: [] ∧
    (withEvent State.reset (.write 0x000 0x20000000)).fault = false ∧ decode 0x20000000 = .command .hreset := by decide
theorem witness_IllegalWordFaults :
    (withEvent State.reset (.write 0x000 0)).waiting = false ∧
    (withEvent State.reset (.write 0x000 0)).pending = .write 0x000 0 :: [] ∧
    (withEvent State.reset (.write 0x000 0)).fault = false ∧ decode 0 = .illegal .opcode := by decide
theorem witness_BusReadHasNoSideEffect :
    (withEvent toy (.read 0x7C0)).pending = .read 0x7C0 :: [] ∧ (withEvent toy (.read 0x7C0)).waiting = false ∧ busRegister 0x7C0 = some (.pointInf 7) ∧ busRegister 0x7C4 = none := by
  decide
theorem witness_BusMapHoles :
    busRegister 0x010 = some .ctrl ∧ busRegister 0x014 = none ∧ busRegister 0x020 = some .ca ∧ busRegister 0x02C = none ∧
    busRegister 0x0E4 = some .hlenLo ∧ busRegister 0x0E8 = none ∧ busRegister 0x0FC = none ∧ busRegister 0x100 = some (.msg 0) ∧
    busRegister 0x440 = some (.pointInf 0) ∧ busRegister 0x444 = none ∧ busRegister 0x800 = none ∧ busRegister 0x001 = none := by decide
theorem witness_RefusedTransactionsChangeNothing :
    toy.waiting = false ∧ (∃ width off, (HostEvent.oddRead .w8 0) = .oddRead width off) ∧ (∃ width off, (HostEvent.oddWrite .w64 0x200) = .oddWrite width off) ∧
    (∃ off v, HostEvent.write 0x014 0 = .write off v ∧ busRegister off = none) ∧
    (∃ off v r, HostEvent.write 0x0E4 0 = .write off v ∧ busRegister off = some r ∧ r = .hlenLo) ∧
    (∃ off v r, HostEvent.write 0x028 1 = .write off v ∧ busRegister off = some r ∧ toy.curveOk = true ∧ r = .ginf) ∧
    (∃ off v r j, HostEvent.write 0x0BC 1 = .write off v ∧ busRegister off = some r ∧ toy.curveOk = true ∧ r = .gy j) :=
  ⟨rfl, ⟨_, _, rfl⟩, ⟨_, _, rfl⟩, ⟨_, _, rfl, rfl⟩, ⟨_, _, _, rfl, rfl, rfl⟩, ⟨_, _, _, rfl, rfl, rfl, rfl⟩,
    ⟨_, _, _, 7, rfl, rfl, rfl, rfl⟩⟩
theorem witness_StoredWordReadsBack :
    (∃ t, storeRegister State.reset (.pointInf 7) 0xFFFFFFFF = some t) ∧ (∃ t, storeRegister State.reset .ginf 3 = some t) ∧
    (∃ t, storeRegister State.reset (.msg 63) 1 = some t) ∧ (∃ t, storeRegister toy (.scalar 15 7) 1 = some t) :=
  ⟨⟨_, rfl⟩, ⟨_, rfl⟩, ⟨_, rfl⟩, ⟨_, rfl⟩⟩
/-- The last word of `S15`, of `MSG` and of `P7` with a curve constructed; the last of `GY` and `GINF` with none. -/
theorem witness_StoredWordReadsBack_step :
    toy.waiting = false ∧ toy.fault = false ∧ busRegister 0x3FC = some (.scalar 15 7) ∧ writable toy (.scalar 15 7) ∧
    busRegister 0x1FC = some (.msg 63) ∧ writable toy (.msg 63) ∧ busRegister 0x7C0 = some (.pointInf 7) ∧
    writable toy (.pointInf 7) ∧ State.reset.fault = false ∧ busRegister 0x0BC = some (.gy 7) ∧ writable State.reset (.gy 7) ∧
    busRegister 0x028 = some .ginf ∧ writable State.reset .ginf :=
  ⟨rfl, rfl, rfl, trivial, rfl, trivial, rfl, trivial, rfl, rfl, rfl, rfl, rfl⟩
theorem witness_FaultStateIsFrozen :
    (faultState 0x02 toy).waiting = false ∧ (faultState 0x02 toy).fault = true ∧ (withEvent (faultState 0x02 toy) (.read 0x008)).pending = .read 0x008 :: [] ∧
    (withEvent (faultState 0x02 toy) (.write 0x000 0x20000000)).pending = .write 0x000 0x20000000 :: [] ∧
    (withEvent (faultState 0x02 toy) (.write 0x010 1)).pending = .write 0x010 1 :: [] ∧ (1 : Word).getLsbD 0 = true ∧
    (withEvent (faultState 0x02 toy) (.write 0x010 2)).pending = .write 0x010 2 :: [] ∧ (2 : Word).getLsbD 0 = false := by decide
theorem witness_ResetFromAnyState :
    (withEvent toy .hardReset).pending = .hardReset :: [] ∧ (withEvent toy (.write 0x010 3)).pending = .write 0x010 3 :: [] ∧
    (3 : Word).getLsbD 0 = true ∧ (withEvent toy (.write 0x010 2)).pending = .write 0x010 2 :: [] ∧ (2 : Word).getLsbD 0 = false ∧
    toy.waiting = false ∧ held.waiting = true ∧ HostEvent.hardReset ∉ [HostEvent.read 0x004] ∧
    held.pending = [.read 0x004] ++ .hardReset :: [] := by
  decide
theorem witness_EveryCommandEnds : toy.waiting = false ∧ (withEvent held (.read 0x004)).waiting = true ∧
    HostEvent.hardReset ∉ (withEvent held (.read 0x004)).pending := by decide

/-- The parameters of `toy` are those of a curve that CINIT accepts. -/
theorem toy_constructed : (curveOf toy.params).construct = .ok () := by decide +kernel

theorem witness_StepKeepsInvariant : Safety.Inv (withEvent toy (.write 0x100 0x61626364)) ∧
    ∃ t, step (withEvent toy (.write 0x100 0x61626364)) = .next t :=
  ⟨⟨by decide, ⟨by decide, by decide⟩, ⟨fun _ => ⟨rfl, rfl⟩, fun h => absurd h (by decide)⟩, fun _ => toy_constructed,
    fun h => absurd h (by decide)⟩, ⟨_, rfl⟩⟩
theorem witness_ConstructedParametersAreImmutable :
    toy.curveOk = true ∧ (∃ t, step (withEvent toy (.write 0x020 1)) = .next t) ∧ ∃ t, step (withEvent toy .hardReset) = .next t :=
  ⟨rfl, ⟨_, rfl⟩, ⟨_, rfl⟩⟩
theorem witness_FaultsArePrecise : State.reset.fault = false ∧ ∃ t, exec (.pchk 0) State.reset = .next t ∧ t.fault = true :=
  ⟨rfl, _, rfl, rfl⟩
theorem witness_FaultsPerCommand : Safety.curveOkConstructed State.reset ∧ State.reset.fault = false ∧
    ∃ t, exec (.verify 0 0 0) State.reset = .next t ∧ t.fault = true :=
  ⟨fun h => absurd h (by decide), rfl, _, rfl, rfl⟩
theorem witness_OnlyFourCommandsTouchT :
    (∃ t, exec .hreset toy = .next t ∧ writesT .hreset = false) ∧
    (∃ t, exec (.pchk 0) State.reset = .next t ∧ State.reset.fault = false ∧ t.fault = true) ∧
    (∃ t, exec (.pchk 0) toy = .next t ∧ writesT (.pchk 0) = true ∧ toy.fault = false ∧ t.fault = false) :=
  ⟨⟨_, rfl, rfl⟩, ⟨_, rfl, rfl, rfl⟩, ⟨_, rfl, rfl, rfl, rfl⟩⟩
theorem witness_OnlyDestinationRegistersChange :
    (∃ t, exec (.hdigest 5) State.reset = .next t) ∧ (4 : SReg) ∉ scalarDests (.hdigest 5) ∧ (0 : PReg) ∉ pointDests (.hdigest 5) := by
  refine ⟨?_, by decide, by decide⟩
  obtain ⟨t, h, -⟩ := exists_of_nextIs (f := fun _ => true) (r := exec (.hdigest 5) State.reset) (by decide +kernel)
  exact ⟨t, h⟩
theorem witness_CommandFrameOutsideRegisters : ∃ t, exec .hreset toy = .next t ∧ draws .hreset = false := ⟨_, rfl, rfl⟩
theorem witness_NegativeOutcomesWriteOnlyT : ∃ t, exec (.sqrt 1 1 .p) (fieldState 9739 0 1337 0) = .next t ∧
    writesT (.sqrt 1 1 .p) = true ∧ (fieldState 9739 0 1337 0).fault = false ∧ t.fault = false ∧ t.t = false := by
  obtain ⟨t, h, hf⟩ := exists_of_nextIs (f := fun t => decide (t.fault = false ∧ t.t = false))
    (r := exec (.sqrt 1 1 .p) (fieldState 9739 0 1337 0)) (by decide +kernel)
  exact ⟨t, h, rfl, rfl, of_decide_eq_true hf⟩
theorem witness_InfinityCoordinatesAreIgnored : (readPointReg toy 0).inf = true ∧ toy.fault = false ∧
    ∃ t, exec (.padd 2 0 1) toy = .next t ∧ t.fault = false := by
  obtain ⟨t, h, hf⟩ := exists_of_nextIs (f := fun t => decide (t.fault = false)) (r := exec (.padd 2 0 1) toy) (by decide +kernel)
  exact ⟨rfl, rfl, t, h, of_decide_eq_true hf⟩

/-- The hypotheses of ModaddResult, ModsubResult, ModmulResult and ModexpResult: moduli 1 and 2. -/
theorem witness_ModaddResult : modulus (fieldState 1 2 0 0) .p < 2 ∧ 2 ≤ modulus (fieldState 1 2 0 0) .n := by decide +kernel
theorem witness_ModsubResult : modulus (fieldState 1 2 0 0) .p < 2 ∧ 2 ≤ modulus (fieldState 1 2 0 0) .n := by decide +kernel
theorem witness_ModmulResult : modulus (fieldState 1 2 0 0) .p < 2 ∧ 2 ≤ modulus (fieldState 1 2 0 0) .n := by decide +kernel
theorem witness_ModexpResult : modulus (fieldState 1 2 0 0) .p < 2 ∧ 2 ≤ modulus (fieldState 1 2 0 0) .n := by decide +kernel
theorem witness_MontmulResult : modulus (fieldState 1 0 0 0) .p < 2 ∧ modulus (fieldState 2 3 0 0) .p % 2 = 0 ∧
    2 ≤ modulus (fieldState 2 3 0 0) .n ∧ modulus (fieldState 2 3 0 0) .n % 2 = 1 := by decide +kernel
theorem witness_MontgomeryRelations :
    3 ≤ modulus (fieldState 3 0 5 1) .p ∧ modulus (fieldState 3 0 5 1) .p % 2 = 1 ∧ (2 : SReg) ≠ 3 ∧
    scalar (fieldState 3 0 5 1) 2 = 2 ^ 512 % modulus (fieldState 3 0 5 1) .p ∧
    scalar (fieldState 3 0 5 1) 2 = 2 ^ 256 % modulus (fieldState 3 0 5 1) .p ∧
    ∃ t, exec (.montmul 3 1 1 .p) (fieldState 3 0 5 1) = .next t := by
  refine ⟨by decide +kernel, by decide +kernel, by decide, by decide +kernel, by decide +kernel, ?_⟩
  obtain ⟨t, h, -⟩ := exists_of_nextIs (f := fun _ => true) (r := exec (.montmul 3 1 1 .p) (fieldState 3 0 5 1)) (by decide +kernel)
  exact ⟨t, h⟩
theorem witness_ModinvResult : modulus (fieldState 1 2 0 1) .p < 2 ∧ 2 ≤ modulus (fieldState 1 2 0 1) .n ∧
    Nat.gcd (scalar (fieldState 1 2 0 1) 1 % modulus (fieldState 1 2 0 1) .n) (modulus (fieldState 1 2 0 1) .n) ≠ 1 ∧
    Nat.gcd (scalar (fieldState 1 2 0 1) 2 % modulus (fieldState 1 2 0 1) .n) (modulus (fieldState 1 2 0 1) .n) = 1 := by decide +kernel
theorem witness_SqrtClosedFormAndNoRoot :
    modulus (fieldState 2 3 1 2) .p < 3 ∧ modulus (fieldState 4 3 1 2) .p % 2 = 0 ∧ 3 ≤ modulus (fieldState 2 3 1 2) .n ∧
    modulus (fieldState 2 3 1 2) .n % 2 = 1 ∧ modulus (fieldState 2 3 1 2) .n % 4 = 3 ∧
    scalar (fieldState 2 3 1 2) 2 ^ ((modulus (fieldState 2 3 1 2) .n - 1) / 2) % modulus (fieldState 2 3 1 2) .n ≠ 1 ∧
    scalar (fieldState 2 3 1 2) 1 ^ ((modulus (fieldState 2 3 1 2) .n - 1) / 2) % modulus (fieldState 2 3 1 2) .n = 1 := by
  decide +kernel

theorem modulus_seventeen : modulus (fieldState 17 0 16 3) .p = 17 := by decide +kernel
theorem toy_p : (curveOf toy.params).p = 17 := by decide +kernel
theorem toy_prime : Nat.Prime (curveOf toy.params).p ∧ (curveOf toy.params).p ≠ 2 := by rw [toy_p]; norm_num
theorem toy_n : (curveOf toy.params).n = 19 := by decide +kernel

theorem witness_SqrtIsRootForOddPrimes :
    Nat.Prime (modulus (fieldState 17 0 16 3) .p) ∧ modulus (fieldState 17 0 16 3) .p ≠ 2 ∧
    scalar (fieldState 17 0 16 3) 1 ^ ((modulus (fieldState 17 0 16 3) .p - 1) / 2) % modulus (fieldState 17 0 16 3) .p = 1 ∧
    scalar (fieldState 17 0 16 3) 2 ^ ((modulus (fieldState 17 0 16 3) .p - 1) / 2) % modulus (fieldState 17 0 16 3) .p ≠ 1 := by
  refine ⟨by rw [modulus_seventeen]; norm_num, by decide +kernel, by decide +kernel, by decide +kernel⟩
theorem witness_CurveCommandsNeedCurve : State.reset.curveOk = false ∧ ∃ r u q, Instr.verify 0 0 0 = .verify r u q :=
  ⟨rfl, _, _, _, rfl⟩
theorem witness_CinitChecksInOrder_moduli :
    (curveOf (paramState 0 0 2 2 0 0).params).p < 3 ∧ (curveOf (paramState 0 0 4 2 0 0).params).p % 2 = 0 ∧
    3 ≤ (curveOf (paramState 0 0 3 1 0 0).params).p ∧ (curveOf (paramState 0 0 3 1 0 0).params).p % 2 = 1 ∧
    (curveOf (paramState 0 0 3 1 0 0).params).n < 2 ∧ 2 ≤ (curveOf (paramState 0 0 3 2 0 0).params).n := by decide +kernel
theorem witness_CinitChecksInOrder_generator :
    ¬ inRange (curveOf (paramState 0 0 3 2 3 0).params) (curveOf (paramState 0 0 3 2 3 0).params).g ∧
    inRange (curveOf (paramState 0 0 3 2 2 0).params) (curveOf (paramState 0 0 3 2 2 0).params).g ∧
    ¬ satisfies (curveOf (paramState 0 0 3 2 2 0).params) (curveOf (paramState 0 0 3 2 2 0).params).g := by decide +kernel
theorem witness_CinitChecksInOrder_order :
    onCurve (curveOf toy.params) (curveOf toy.params).g ∧
    (∃ V, (curveOf toy.params).smul (curveOf toy.params).g (curveOf toy.params).n = .ok V ∧ V.inf = true) ∧
    (∃ V, (curveOf (paramState 2 2 17 18 5 1).params).smul (curveOf (paramState 2 2 17 18 5 1).params).g 18 = .ok V ∧ V.inf = false) ∧
    (curveOf (paramState 2 2 17 18 5 1).params).n = 18 ∧
    onCurve (curveOf (paramState 0 0 9 5 1 1).params) (curveOf (paramState 0 0 9 5 1 1).params).g ∧
    (∃ e, (curveOf (paramState 0 0 9 5 1 1).params).smul (curveOf (paramState 0 0 9 5 1 1).params).g 5 = .error e) ∧
    (curveOf (paramState 0 0 9 5 1 1).params).n = 5 ∧ Safety.curveOkConstructed toy ∧ toy.curveOk = true :=
  ⟨⟨by decide +kernel, by decide +kernel⟩, ⟨.infinity, by decide +kernel, rfl⟩, ⟨⟨5, 16, false⟩, by decide +kernel, rfl⟩,
    by decide +kernel, ⟨by decide +kernel, by decide +kernel⟩, ⟨.notInvertible, by decide +kernel⟩, by decide +kernel,
    fun _ => toy_constructed, rfl⟩
theorem witness_PchkResult : State.reset.curveOk = false ∧ toy.curveOk = true := ⟨rfl, rfl⟩
theorem witness_PrecRecoversPoint :
    toy.curveOk = true ∧ Nat.Prime (curveOf toy.params).p ∧ (curveOf toy.params).p ≠ 2 ∧
    (curveOf toy.params).p ≤ scalar (withScalar toy 1 17) 1 ∧ scalar (withScalar toy 1 16) 1 < (curveOf toy.params).p ∧
    rhsAt (curveOf toy.params) 16 ^ (((curveOf toy.params).p - 1) / 2) % (curveOf toy.params).p = 1 ∧
    rhsAt (curveOf toy.params) 15 ^ (((curveOf toy.params).p - 1) / 2) % (curveOf toy.params).p ≠ 1 :=
  ⟨rfl, toy_prime.1, toy_prime.2, by decide +kernel, by decide +kernel, by decide +kernel, by decide +kernel⟩
theorem witness_PaddOperandFaults :
    toy.curveOk = true ∧ ¬ inRange (curveOf toy.params) (point (withPoint toy 0 (affine 17 0)) 0) ∧
    inRange (curveOf toy.params) (point (withPoint toy 0 (affine 16 16)) 0) ∧
    ¬ satisfies (curveOf toy.params) (point (withPoint toy 0 (affine 16 16)) 0) ∧
    inRange (curveOf toy.params) (point toy 1) := by decide +kernel

/-- (5, 1), (5, 16) and (6, 3) are on the toy curve, infinity too, so each case of the group law occurs. -/
theorem witness_PaddGroupLaw :
    toy.curveOk = true ∧ Nat.Prime (curveOf toy.params).p ∧ (curveOf toy.params).p ≠ 2 ∧
    onCurve (curveOf toy.params) (point toy 0) ∧ (point toy 0).inf = true ∧
    onCurve (curveOf toy.params) (point (withPoint toy 0 (affine 5 1)) 0) ∧
    onCurve (curveOf toy.params) (point (withPoint toy 0 (affine 5 16)) 0) ∧ (1 + 16) % (curveOf toy.params).p = 0 ∧
    onCurve (curveOf toy.params) (point (withPoint toy 0 (affine 6 3)) 0) ∧ ¬((5 : Nat) = 6 ∧ (1 + 3) % (curveOf toy.params).p = 0) :=
  ⟨rfl, toy_prime.1, toy_prime.2, ⟨by decide +kernel, by decide +kernel⟩, by decide +kernel, ⟨by decide +kernel, by decide +kernel⟩,
    ⟨by decide +kernel, by decide +kernel⟩, by decide +kernel, ⟨by decide +kernel, by decide +kernel⟩, by decide +kernel⟩
theorem witness_PdblTangentLaw :
    onCurve (curveOf toy.params) (point toy 0) ∧ (point toy 0).inf = true ∧
    onCurve (curveOf toy.params) (point (withPoint toy 0 (affine 5 1)) 0) ∧ (point (withPoint toy 0 (affine 5 1)) 0).y ≠ 0 ∧
    onCurve (curveOf (curveState 1 0 13 2 0 0).params) (point (withPoint (curveState 1 0 13 2 0 0) 0 (affine 0 0)) 0) ∧
    (point (withPoint (curveState 1 0 13 2 0 0) 0 (affine 0 0)) 0).y = 0 ∧ (curveOf (curveState 1 0 13 2 0 0).params).p = 13 ∧
    Nat.Prime 13 :=
  ⟨⟨by decide +kernel, by decide +kernel⟩, by decide +kernel, ⟨by decide +kernel, by decide +kernel⟩, by decide +kernel,
    ⟨by decide +kernel, by decide +kernel⟩, by decide +kernel, by decide +kernel, by norm_num⟩
theorem witness_AddStaysOnCurve :
    onCurve (curveOf toy.params) (curveOf toy.params).g ∧ Nat.Prime (curveOf toy.params).p ∧ (curveOf toy.params).p ≠ 2 ∧
    (curveOf toy.params).add (curveOf toy.params).g (curveOf toy.params).g = .ok ⟨6, 3, false⟩ :=
  ⟨⟨by decide +kernel, by decide +kernel⟩, toy_prime.1, toy_prime.2, by decide +kernel⟩
theorem witness_SmulByZeroAndOne :
    toy.curveOk = true ∧ ¬ inRange (curveOf toy.params) (point (withPoint toy 0 (affine 0 17)) 0) ∧
    inRange (curveOf toy.params) (point (withPoint toy 0 (affine 5 2)) 0) ∧
    ¬ satisfies (curveOf toy.params) (point (withPoint toy 0 (affine 5 2)) 0) ∧ scalar toy 1 = 0 ∧ scalar (withScalar toy 1 1) 1 = 1 ∧
    onCurve (curveOf toy.params) (point (withPoint toy 0 (affine 5 1)) 0) ∧ Nat.Prime (curveOf toy.params).p :=
  ⟨rfl, by decide +kernel, by decide +kernel, by decide +kernel, by decide +kernel, by decide +kernel,
    ⟨by decide +kernel, by decide +kernel⟩, toy_prime.1⟩
theorem witness_SmulCompletesOnCurve :
    toy.curveOk = true ∧ Nat.Prime (curveOf toy.params).p ∧ (curveOf toy.params).p ≠ 2 ∧
    onCurve (curveOf toy.params) (point (withPoint toy 0 (affine 16 4)) 0) :=
  ⟨rfl, toy_prime.1, toy_prime.2, ⟨by decide +kernel, by decide +kernel⟩⟩
theorem witness_SmulAdditiveInScalar :
    Nat.Prime (curveOf toy.params).p ∧ (curveOf toy.params).p ≠ 2 ∧ onCurve (curveOf toy.params) ⟨3, 4, true⟩ ∧
    onCurve (curveOf toy.params) (curveOf toy.params).g :=
  ⟨toy_prime.1, toy_prime.2, ⟨.inl rfl, .inl rfl⟩, ⟨by decide +kernel, by decide +kernel⟩⟩
theorem witness_KeygenResult :
    toy.curveOk = true ∧ Safety.curveOkConstructed toy ∧ Nat.Prime (curveOf toy.params).p ∧ (curveOf toy.params).n = 19 ∧
    draw (withDraws toy [18]).port = .answered 18 { answers := [], drawn := 1 } ∧
    draw (withDraws toy [1]).port = .answered 1 { answers := [], drawn := 1 } ∧
    draw (withDraws toy [19]).port = .answered 19 { answers := [], drawn := 1 } ∧
    draw (withDraws toy [0]).port = .answered 0 { answers := [], drawn := 1 } ∧ toy.port.answers = [] ∧
    (withDraws toy [1]).port.answers = .value 1 :: [] :=
  ⟨rfl, fun _ => toy_constructed, toy_prime.1, toy_n, by decide +kernel, by decide +kernel, by decide +kernel, by decide +kernel, rfl, rfl⟩
theorem witness_HappendResult :
    256 < (257 : BitVec 12).toNat ∧ (256 : BitVec 12).toNat ≤ 256 ∧ State.reset.digest.hlen.toNat + 256 ≤ 2 ^ 61 - 1 ∧
    2 ^ 61 - 1 < (BitVec.ofNat 64 (2 ^ 61 - 1)).toNat + (1 : BitVec 12).toNat := by decide +kernel
theorem witness_MessageSchedule : (List.replicate 64 (0 : Byte)).length = 64 ∧ 0 < 32 ∧ 31 < 32 := by decide
theorem witness_DigestIsSha256OfMessage : ([] : List Byte).length ≤ 2 ^ 61 - 1 ∧ ([0x61, 0x62, 0x63] : List Byte).length ≤ 2 ^ 61 - 1 := by
  decide

/-- The message representative of `"abc"`. -/
def abcValue : Wide := 0xBA7816BF8F01CFEA414140DE5DAE2223B00361A396177A9CB410FF61F20015AD

theorem digest_abc : digestValue abcDigest = .ok abcValue := by decide +kernel

theorem witness_SignOnFirstDraw :
    (1 : SReg) ≠ 2 ∧ signing.curveOk = true ∧ scalar signing 0 = 7 ∧ scalar (withScalar signing 0 19) 0 = 19 ∧ (curveOf signing.params).n = 19 ∧
    draw signing.port = .answered 10 { answers := [], drawn := 1 } ∧
    draw (withDraws signing [19]).port = .answered 19 { answers := [], drawn := 1 } ∧
    (curveOf signing.params).smul (curveOf signing.params).g 10 = .ok ⟨7, 11, false⟩ ∧ 7 % (curveOf signing.params).n ≠ 0 ∧
    digestValue signing.digest = .ok abcValue ∧ 10 * 2 % (curveOf signing.params).n = 1 ∧
    2 * (abcValue.toNat + 7 * (7 % (curveOf signing.params).n)) % (curveOf signing.params).n ≠ 0 :=
  ⟨by decide, rfl, by decide +kernel, by decide +kernel, by decide +kernel, by decide +kernel, by decide +kernel, by decide +kernel,
    by decide +kernel, digest_abc, by decide +kernel, by decide +kernel⟩
theorem witness_SignDrawsAndRanges :
    (1 : SReg) ≠ 2 ∧ signing.fault = false ∧ ∃ t, exec (.sign 1 2 0) signing = .next t ∧ t.fault = false ∧ t.waiting = false := by
  obtain ⟨t, h, hf⟩ := exists_of_nextIs (f := fun t => decide (t.fault = false ∧ t.waiting = false))
    (r := exec (.sign 1 2 0) signing) (by decide +kernel)
  exact ⟨by decide, rfl, t, h, of_decide_eq_true hf⟩

/-- 5·G = (9, 16), so a draw of 5 gives `r` = 9, and for the key 6 `e` + 6·9 = 3 + 54 = 0 mod 19: a retry; the draw of 10 then gives
`r` = 7 and `s` = 2·(3 + 6·7) mod 19 = 14. -/
theorem witness_SignDrawsAndRanges_retry :
    digestValue signing.digest = .ok abcValue ∧ scalar (withScalar signing 0 6) 0 = 6 ∧ (curveOf signing.params).n = 19 ∧
    drawsInTurn (withDraws signing [5, 10]).port [5] { answers := [.value 10], drawn := 1 } ∧
    retryDraw (curveOf signing.params) abcValue.toNat 6 5 ∧
    draw { answers := [.value 10], drawn := 1 } = .answered 10 { answers := [], drawn := 2 } ∧
    signingDraw (curveOf signing.params) abcValue.toNat 6 10 7 14 ∧
    drawsInTurn signing.port [] signing.port ∧ ([] : List Nat).length < Config.signRetryLimit :=
  ⟨digest_abc, by decide +kernel, by decide +kernel, ⟨_, rfl, rfl⟩,
    ⟨by decide, by decide +kernel, ⟨9, 16, false⟩, by decide +kernel, .inr (.inr ⟨4, by decide +kernel, by decide +kernel⟩)⟩,
    by decide +kernel,
    ⟨by decide, by decide +kernel, ⟨7, 11, false⟩, 2, by decide +kernel, rfl, by decide +kernel, by decide, by decide +kernel,
      by decide +kernel, by decide⟩, rfl, Nat.succ_pos _⟩

/-- On the order 38, not prime, the draw of 2 has no inverse. -/
theorem witness_SignDrawsAndRanges_noInverse :
    (curveOf (curveState 2 2 17 38 5 1).params).smul ⟨5, 1, false⟩ 2 = .ok ⟨6, 3, false⟩ ∧ 6 % 38 ≠ 0 ∧ Nat.gcd 2 38 ≠ 1 := by
  decide +kernel
/-- There are draws in turn as many as the limit, whatever it is, each a retry: the free queue can hold them. -/
theorem drawsInTurn_replicate (k : Wide) (m : Nat) (rest : List PortAnswer) (drawn : Nat) :
    ∃ mid, drawsInTurn { answers := List.replicate m (.value k) ++ rest, drawn := drawn } (List.replicate m k.toNat) mid := by
  induction m generalizing drawn with
  | zero => exact ⟨_, rfl⟩
  | succ m ih => obtain ⟨mid, h⟩ := ih (drawn + 1); exact ⟨mid, _, rfl, h⟩
theorem witness_SignDrawsAndRanges_limit :
    ∃ mid, drawsInTurn { answers := List.replicate Config.signRetryLimit (.value 5) ++ [], drawn := 0 }
      (List.replicate Config.signRetryLimit 5) mid ∧ (List.replicate Config.signRetryLimit 5).length = Config.signRetryLimit := by
  obtain ⟨mid, h⟩ := drawsInTurn_replicate 5 Config.signRetryLimit [] 0
  exact ⟨mid, h, List.length_replicate⟩

/-- The signature (7, 9) of the example is valid, and (0, 9) is not. -/
theorem witness_VerifyDecidesValidity :
    signing.curveOk = true ∧ Safety.curveOkConstructed signing ∧ Nat.Prime (curveOf signing.params).p ∧
    digestValue signing.digest = .ok abcValue ∧
    validSignature (curveOf signing.params) abcValue.toNat 7 9 (point signing 0) ∧
    ¬ validSignature (curveOf signing.params) abcValue.toNat 0 9 (point signing 0) := by
  refine ⟨rfl, fun _ => toy_constructed, toy_prime.1, digest_abc, ⟨⟨by decide +kernel, by decide +kernel⟩,
    ⟨.infinity, by decide +kernel, rfl⟩, by decide, by decide +kernel, by decide, by decide +kernel,
    17, ⟨16, 4, false⟩, ⟨10, 11, false⟩, ⟨7, 11, false⟩, by decide +kernel, by decide +kernel, by decide +kernel, by decide +kernel, rfl,
    by decide +kernel⟩, fun h => absurd h.2.2.1 (by decide)⟩
theorem witness_VerifyRejectsBadInputs :
    ¬ onCurve (curveOf toy.params) (point (withPoint toy 0 (affine 5 2)) 0) ∧
    (∃ V, (curveOf (curveState 2 2 17 18 5 1).params).smul ⟨5, 1, false⟩ 18 = .ok V ∧ V.inf = false) ∧
    (∃ V, (curveOf toy.params).smul ⟨5, 1, false⟩ (curveOf toy.params).n = .ok V ∧ scalar toy 1 < 1 ∧
      (curveOf toy.params).n ≤ scalar (withScalar toy 1 19) 1) ∧
    (∃ V, (curveOf (curveState 2 2 17 38 5 1).params).smul ⟨5, 1, false⟩ 38 = .ok V ∧ V.inf = true ∧ Nat.gcd 2 38 ≠ 1) := by
  refine ⟨fun h => absurd h.2 (by decide +kernel), ⟨⟨5, 16, false⟩, by decide +kernel, rfl⟩,
    ⟨.infinity, by decide +kernel, by decide +kernel, by decide +kernel⟩, ⟨.infinity, by decide +kernel, rfl, by decide⟩⟩
theorem witness_SignedMessageVerifies :
    (1 : SReg) ≠ 2 ∧ signing.curveOk = true ∧ Safety.curveOkConstructed signing ∧ signing.fault = false ∧
    Nat.Prime (curveOf signing.params).p ∧ Nat.Prime (curveOf signing.params).n ∧ (curveOf signing.params).g.inf = false ∧
    1 ≤ scalar signing 0 ∧ scalar signing 0 ≤ (curveOf signing.params).n - 1 ∧
    (curveOf signing.params).smul (curveOf signing.params).g (scalar signing 0) = .ok (point signing 0) ∧
    ∃ t, exec (.sign 1 2 0) signing = .next t ∧ t.fault = false ∧ t.waiting = false := by
  refine ⟨by decide, rfl, fun _ => toy_constructed, rfl, toy_prime.1, ?_, by decide +kernel, by decide +kernel, by decide +kernel,
    by decide +kernel, witness_SignDrawsAndRanges.2.2⟩
  show Nat.Prime (curveOf toy.params).n
  rw [toy_n]; norm_num

end Sys2Proof.Tests
end

section
/-! SUPPORT. What a command can do, said once: the answers of `exec`, and what they leave unchanged. -/

namespace Sys2Proof.Machine

open Sys2Proof.Claims

/-! ## Everything a command can do -/

/-- `t` is a state in which command `i`, run on `s`, may end: one constructor per kind of ending, each with what it needs. -/
inductive CommandEffect (i : Instr) (s : State) : State → Prop where
  /-- The fault record is written and nothing else; draws already made stay spent (60_exceptions.md R152). -/
  | faulted (c : FaultCause) (q : RandomPort) (hport : q = s.port ∨ draws i = true) :
      CommandEffect i s (takeFault c { s with port := q })
  /-- The random source never answers (70_reset_and_hazards.md R186). -/
  | waits (q : RandomPort) (hdraws : draws i = true) (hcurve : s.curveOk = true) : CommandEffect i s (awaitSource q s)
  /-- Registers of the two files are written. -/
  | registers (sc : Vector Wide 16) (pt : Vector PointReg 8) : CommandEffect i s { s with scalars := sc, points := pt }
  /-- `T` is written, and perhaps registers (10_state.md R19). -/
  | flagged (sc : Vector Wide 16) (pt : Vector PointReg 8) (b : Bool) (hflag : writesT i = true) :
      CommandEffect i s { s with scalars := sc, points := pt, t := b }
  /-- Registers are written after draws (10_state.md R24). -/
  | drew (sc : Vector Wide 16) (pt : Vector PointReg 8) (q : RandomPort) (hdraws : draws i = true) :
      CommandEffect i s { s with scalars := sc, points := pt, port := q }
  /-- The curve is constructed (42_curve.md R107). -/
  | constructed (hi : i = .cinit) (hok : (curveOf s.params).construct = .ok ()) : CommandEffect i s (setCurveOk s)
  /-- The DigestState changes, and stays consistent (10_state.md R21). -/
  | digested (d : DigestState) (hdigest : writesDigest i = true) (hok : Safety.digestOk s.digest → Safety.digestOk d) :
      CommandEffect i s { s with digest := d }

/-- The result is a next state that command `i`, run on `s`, may end in. -/
def Answers (i : Instr) (s : State) (r : Result) : Prop := ∃ t, r = .next t ∧ CommandEffect i s t

variable {i : Instr} {s t : State}

theorem CommandEffect.answers (h : CommandEffect i s t) : Answers i s (.next t) := ⟨t, rfl, h⟩

/-! ## The shared operations of the meanings -/

theorem answers_raiseFault (c : FaultCause) : Answers i s (raiseFault c s) :=
  (CommandEffect.faulted c s.port (.inl rfl)).answers

theorem answers_fieldCommand (rd : SReg) (m : ModSel) (bad : Nat → Bool) (f : Nat → Except FaultCause Nat) :
    Answers i s (fieldCommand s rd m bad f) := by
  obtain ⟨v, h, -, -⟩ | ⟨c, h⟩ := fieldCommand_cases s rd m bad f
  · rw [h]; exact (CommandEffect.registers _ s.points).answers
  · rw [h]; exact answers_raiseFault c

theorem answers_withCurve {k : Curve → Result} (h : s.curveOk = true → Answers i s (k (curveOf s.params))) :
    Answers i s (withCurve s k) := by
  cases hc : s.curveOk with
  | true => rw [withCurve_on hc]; exact h hc
  | false => rw [withCurve_off hc]; exact answers_raiseFault .noCurve

theorem answers_finishPoint (pd : PReg) (r : Except FaultCause Point) : Answers i s (finishPoint s pd r) := by
  obtain ⟨v, -, h⟩ | ⟨c, -, h⟩ := finishPoint_cases s pd r
  · rw [h]; exact (CommandEffect.registers s.scalars _).answers
  · rw [h]; exact answers_raiseFault c

theorem answers_pointCommand (pd : PReg) (f : Curve → Except FaultCause Point) :
    Answers i s (withCurve s fun c => finishPoint s pd (f c)) :=
  answers_withCurve fun _ => answers_finishPoint pd _

/-! ## The digest stays consistent -/

/-- Taking a byte below the limit keeps the DigestState consistent and counts it (43_sha256.md R126). -/
theorem digestOk_appendByte {d : DigestState} (v : Byte) (h : Safety.digestOk d) (hlt : d.hlen.toNat < Config.hashMaxBytes) :
    Safety.digestOk (appendByte d v) ∧ (appendByte d v).hlen.toNat = d.hlen.toNat + 1 := by
  obtain ⟨hbuf, -⟩ := h
  have hcount : (appendByte d v).hlen.toNat = d.hlen.toNat + 1 := by
    have : d.hlen.toNat + 1 < 2 ^ 64 := by simp only [Config.hashMaxBytes] at hlt; omega
    rw [appendByte_hlen, BitVec.toNat_add]
    exact Nat.mod_eq_of_lt this
  have hlength : (appendByte d v).hbuf.length = (d.hlen.toNat + 1) % 64 := by
    unfold appendByte
    split
    next hfull =>
      rw [List.length_append, List.length_singleton] at hfull
      rw [List.length_nil]
      omega
    next hroom =>
      rw [List.length_append, List.length_singleton] at hroom ⊢
      omega
  exact ⟨⟨by rw [hlength, hcount], by omega⟩, hcount⟩

theorem digestOk_appendBytes (bytes : List Byte) {d : DigestState} (h : Safety.digestOk d)
    (hle : d.hlen.toNat + bytes.length ≤ Config.hashMaxBytes) : Safety.digestOk (appendBytes d bytes) := by
  induction bytes generalizing d with
  | nil => exact h
  | cons v bytes ih =>
    rw [List.length_cons] at hle
    obtain ⟨hok, hcount⟩ := digestOk_appendByte v h (by omega)
    exact ih hok (by omega)

theorem digestOk_initial : Safety.digestOk .initial := ⟨rfl, Nat.zero_le _⟩

/-! ## One lemma per command with checks of its own -/

theorem answers_execSqrt (rd rs1 : SReg) (m : ModSel) : Answers (.sqrt rd rs1 m) s (execSqrt rd rs1 m s) := by
  unfold execSqrt
  split
  · exact answers_raiseFault .modulus
  · split
    next c _ => exact answers_raiseFault c
    next => exact (CommandEffect.flagged _ s.points true rfl).answers
    next => exact (CommandEffect.flagged s.scalars s.points false rfl).answers

theorem answers_execCinit : Answers .cinit s (execCinit s) := by
  unfold execCinit
  split
  next c _ => exact answers_raiseFault c
  next hok => exact (CommandEffect.constructed rfl hok).answers

theorem answers_execPchk (ps1 : PReg) : Answers (.pchk ps1) s (execPchk ps1 s) :=
  answers_withCurve fun _ => (CommandEffect.flagged s.scalars s.points _ rfl).answers

theorem answers_execPrec (pd : PReg) (rs1 : SReg) : Answers (.prec pd rs1) s (execPrec pd rs1 s) := by
  refine answers_withCurve fun _ => ?_
  split
  · exact answers_raiseFault .range
  · split
    next c _ => exact answers_raiseFault c
    next => exact (CommandEffect.flagged s.scalars _ true rfl).answers
    next => exact (CommandEffect.flagged s.scalars s.points false rfl).answers

theorem answers_execKeygen (rd : SReg) (pd : PReg) : Answers (.keygen rd pd) s (execKeygen rd pd s) := by
  refine answers_withCurve fun hcurve => ?_
  split
  next after _ => exact (CommandEffect.waits after rfl hcurve).answers
  next d after _ =>
    dsimp only
    split
    · exact (CommandEffect.faulted .rngRange after (.inr rfl)).answers
    · split
      next c _ => exact (CommandEffect.faulted c after (.inr rfl)).answers
      next => exact (CommandEffect.drew _ _ after rfl).answers

theorem answers_execHappend (len : BitVec 12) : Answers (.happend len) s (execHappend len s) := by
  unfold execHappend
  split
  · exact answers_raiseFault .hashLen
  · refine (CommandEffect.digested _ rfl fun h => digestOk_appendBytes _ h ?_).answers
    rw [memRead_length]
    omega

theorem answers_execHdigest (rd : SReg) : Answers (.hdigest rd) s (execHdigest rd s) := by
  rw [execHdigest, digestValue_ok]
  exact (CommandEffect.registers _ s.points).answers

theorem answers_execSign (rdR rdS rsD : SReg) : Answers (.sign rdR rdS rsD) s (execSign rdR rdS rsD s) := by
  refine answers_withCurve fun hcurve => ?_
  split
  · exact answers_raiseFault .range
  · obtain ⟨r, sg, q, -, h⟩ | ⟨c, q, -, h⟩ | ⟨q, -, h⟩ := finishSign_cases s rdR rdS _
    · rw [h]; exact (CommandEffect.drew _ s.points q rfl).answers
    · rw [h]; exact (CommandEffect.faulted c q (.inr rfl)).answers
    · rw [h]; exact (CommandEffect.waits q rfl hcurve).answers

theorem answers_execVerify (rsR rsS : SReg) (psQ : PReg) : Answers (.verify rsR rsS psQ) s (execVerify rsR rsS psQ s) := by
  refine answers_withCurve fun _ => ?_
  split
  next c _ => exact answers_raiseFault c
  next b _ => exact (CommandEffect.flagged s.scalars s.points b rfl).answers

/-- Every command ends in a next state, of one of the kinds of `CommandEffect`. -/
theorem answers_exec (i : Instr) (s : State) : Answers i s (exec i s) := by
  cases i with
  | modadd rd _ _ m => rw [exec, execModadd]; exact answers_fieldCommand rd m _ _
  | modsub rd _ _ m => rw [exec, execModsub]; exact answers_fieldCommand rd m _ _
  | modmul rd _ _ m => rw [exec, execModmul]; exact answers_fieldCommand rd m _ _
  | montmul rd _ _ m => rw [exec, execMontmul]; exact answers_fieldCommand rd m _ _
  | modexp rd _ _ m => rw [exec, execModexp]; exact answers_fieldCommand rd m _ _
  | modinv rd _ m => rw [exec, execModinv]; exact answers_fieldCommand rd m _ _
  | sqrt rd rs1 m => exact answers_execSqrt rd rs1 m
  | cinit => exact answers_execCinit
  | pchk ps1 => exact answers_execPchk ps1
  | prec pd rs1 => exact answers_execPrec pd rs1
  | padd pd _ _ => rw [exec, execPadd]; exact answers_pointCommand pd _
  | pdbl pd _ => rw [exec, execPdbl]; exact answers_pointCommand pd _
  | smul pd _ _ => rw [exec, execSmul]; exact answers_pointCommand pd _
  | keygen rd pd => exact answers_execKeygen rd pd
  | hreset => exact (CommandEffect.digested .initial rfl fun _ => digestOk_initial).answers
  | happend len => exact answers_execHappend len
  | hdigest rd => exact answers_execHdigest rd
  | sign rdR rdS rsD => exact answers_execSign rdR rdS rsD
  | verify rsR rsS psQ => exact answers_execVerify rsR rsS psQ

/-- The inversion of `exec`. -/
theorem exec_effect (h : exec i s = .next t) : CommandEffect i s t := by
  obtain ⟨u, hu, he⟩ := answers_exec i s
  rwa [Result.next_inj.mp (h.symm.trans hu)]

/-- Issuing a word: an illegal one ends in `F_ILLEGAL_CMD`, as any command may end in a fault. -/
theorem issue_effect {w : Word} (h : issue w s = .next t) : ∃ i, CommandEffect i (latchCommand w s) t := by
  cases hd : decode w with
  | command i => exact ⟨i, exec_effect ((issue_command hd).symm.trans h)⟩
  | illegal why =>
    cases (issue_illegal hd).symm.trans h
    exact ⟨.cinit, .faulted .illegalCmd s.port (.inl rfl)⟩

/-! ## What every command leaves unchanged -/

namespace CommandEffect

theorem params_eq (h : CommandEffect i s t) : t.params = s.params := by cases h <;> rfl
theorem cmd_eq (h : CommandEffect i s t) : t.cmd = s.cmd := by cases h <;> rfl
theorem msg_eq (h : CommandEffect i s t) : t.msg = s.msg := by cases h <;> rfl
theorem epoch_eq (h : CommandEffect i s t) : t.epoch = s.epoch := by cases h <;> rfl
theorem pending_eq (h : CommandEffect i s t) : t.pending = s.pending := by cases h <;> rfl
theorem replies_eq (h : CommandEffect i s t) : t.replies = s.replies := by cases h <;> rfl

theorem readMsg_eq (h : CommandEffect i s t) (a : Nat) : readMsg t a = readMsg s a := by
  rw [readMsg, readMsg, h.msg_eq, h.epoch_eq]

/-- `CURVE_OK` is set by CINIT alone, over parameters that pass its checks, and cleared by no command. -/
theorem curveOk_cases (h : CommandEffect i s t) :
    t.curveOk = s.curveOk ∨ (i = .cinit ∧ t.curveOk = true ∧ (curveOf s.params).construct = .ok ()) := by
  cases h with
  | constructed hi hok => exact .inr ⟨hi, rfl, hok⟩
  | _ => exact .inl rfl

theorem digest_eq (h : CommandEffect i s t) (hi : writesDigest i = false) : t.digest = s.digest := by
  cases h with
  | digested d hdigest _ => simp [hdigest] at hi
  | _ => rfl

theorem digestOk (h : CommandEffect i s t) (hs : Safety.digestOk s.digest) : Safety.digestOk t.digest := by
  cases h with
  | digested d _ hok => exact hok hs
  | _ => exact hs

theorem port_eq (h : CommandEffect i s t) (hi : draws i = false) : t.port = s.port := by
  cases h with
  | faulted c q hport => exact hport.resolve_right (by simp [hi])
  | waits q hdraws _ => simp [hdraws] at hi
  | drew sc pt q hdraws => simp [hdraws] at hi
  | _ => rfl

/-- A command that waits is one that draws, has passed the check of `CURVE_OK` and has taken no fault. -/
theorem waiting_cases (h : CommandEffect i s t) :
    t.waiting = s.waiting ∨ (draws i = true ∧ t.curveOk = true ∧ t.fault = s.fault) := by
  cases h with
  | waits q hdraws hcurve => exact .inr ⟨hdraws, hcurve, rfl⟩
  | _ => exact .inl rfl

theorem waiting_eq (h : CommandEffect i s t) (hi : draws i = false) : t.waiting = s.waiting := by
  obtain hw | ⟨hdraws, -, -⟩ := h.waiting_cases
  · exact hw
  · simp [hdraws] at hi

/-- The fault record is unchanged, or the command has faulted. -/
theorem faultRecord_cases (h : CommandEffect i s t) :
    (t.fault = s.fault ∧ t.fcause = s.fcause ∧ t.finfo = s.finfo) ∨
    (t.fault = true ∧ (∃ c, t.fcause = faultCode c) ∧ t.finfo = s.cmd ∧ t.t = s.t) := by
  cases h with
  | faulted c q _ => exact .inr ⟨rfl, ⟨c, rfl⟩, rfl, rfl⟩
  | _ => exact .inl ⟨rfl, rfl, rfl⟩

theorem t_eq (h : CommandEffect i s t) (hi : writesT i = false) : t.t = s.t := by
  cases h with
  | flagged sc pt b hflag => simp [hflag] at hi
  | _ => rfl

theorem t_eq_of_fault (h : CommandEffect i s t) (hs : s.fault = false) (ht : t.fault = true) : t.t = s.t := by
  obtain ⟨hsame, -, -⟩ | ⟨-, -, -, hkept⟩ := h.faultRecord_cases
  · simp [hs, ht] at hsame
  · exact hkept

end CommandEffect

end Sys2Proof.Machine
end

section
/-! SUPPORT. What a step can do, and the invariant of the block. -/

namespace Sys2Proof.Machine

open Sys2Proof.Claims

variable {s t u : State}

/-! ## Writes that only store a value -/

/-- Everything a write that only stores a value can write. -/
theorem storeRegister_cases {r : BusReg} {v : Word} (h : storeRegister s r v = some t) :
    (s.curveOk = false ∧ ∃ p, t = { s with params := p }) ∨ (∃ k, t = writeMsgWord s k v) ∨
    (∃ i w, t = writeScalar s i w) ∨ (∃ i p, t = writePointReg s i p) := by
  have hparams : ∀ p, writeParams s p = some t → s.curveOk = false ∧ ∃ p, t = { s with params := p } := by
    intro p hp
    cases hc : s.curveOk with
    | true => simp [writeParams, hc] at hp
    | false => exact ⟨rfl, p, by simpa [writeParams, hc] using hp.symm⟩
  cases r with
  | ca | cb | ginf | cp | cn | gx | gy => exact .inl (hparams _ h)
  | msg k => exact .inr (.inl ⟨k, (Option.some.inj h).symm⟩)
  | scalar i j => exact .inr (.inr (.inl ⟨i, _, (Option.some.inj h).symm⟩))
  | pointX i j | pointY i j | pointInf i => exact .inr (.inr (.inr ⟨i, _, (Option.some.inj h).symm⟩))
  | cmd | status | fcause | finfo | ctrl | h | hlenHi | hlenLo => cases h

/-! ## Everything a step can do -/

/-- `t` is a state in which a step from `s` may end: one constructor per kind of step, with the host's list and the replies after
it. -/
inductive StepEffect (s : State) : State → Prop where
  /-- Only the host's list and the replies change. -/
  | quiet (es : List HostEvent) (rs : List BusReply) : StepEffect s { s with pending := es, replies := rs }
  | reset (es : List HostEvent) (rs : List BusReply) : StepEffect s { resetBlock s with pending := es, replies := rs }
  /-- A register or a word of `MSG` is written. -/
  | stored (es : List HostEvent) (r : BusReg) (v : Word) (u : State)
      (hstore : storeRegister { s with pending := es } r v = some u) : StepEffect s (reply .done u)
  /-- A word is issued; its transaction is answered or left outstanding. -/
  | issued (es : List HostEvent) (w : Word) (u : State) (rs : List BusReply) (hwait : s.waiting = false)
      (hfault : s.fault = false) (hissue : issue w { s with pending := es } = .next u) : StepEffect s { u with replies := rs }

theorem completeWith_next {b : BusReply} {r : Result} (h : completeWith b r = .next t) :
    ∃ u rs, r = .next u ∧ t = { u with replies := rs } := by
  cases r with
  | next u =>
    cases hw : u.waiting with
    | true => exact ⟨u, u.replies, rfl, (Result.next_inj.mp ((completeWith_waiting hw).symm.trans h)).symm⟩
    | false => exact ⟨u, b :: u.replies, rfl, (Result.next_inj.mp ((completeWith_done hw).symm.trans h)).symm⟩
  | fault f => cases h
  | refused x => cases h

theorem busWrite_effect {off : Nat} {v : Word} {es : List HostEvent} (hw : s.waiting = false)
    (h : busWrite off v { s with pending := es } = .next t) : StepEffect s t := by
  unfold busWrite at h
  split at h
  · cases h; exact .quiet es _
  · cases h
    unfold writeCtrl
    split
    · exact .reset es _
    · exact .quiet es _
  next r _ _ =>
    obtain e | ⟨hf, -, e⟩ | ⟨-, u, hu, e⟩ := writeRegister_cases r v { s with pending := es }
    · cases e.symm.trans h; exact .quiet es _
    · obtain ⟨u, rs, hu, rfl⟩ := completeWith_next (e.symm.trans h)
      exact .issued es v u rs hw hf hu
    · cases e.symm.trans h; exact .stored es r v u hu

theorem hostEvent_effect {e : HostEvent} {es : List HostEvent} (hw : s.waiting = false)
    (h : hostEvent e { s with pending := es } = .next t) : StepEffect s t := by
  cases e with
  | read off => cases h; exact .quiet es _
  | write off v => exact busWrite_effect hw h
  | oddRead width off => cases h; exact .quiet es _
  | oddWrite width off => cases h; exact .quiet es _
  | hardReset => cases h; exact .reset es _

/-- The inversion of `step`. -/
theorem step_effect (h : step s = .next t) : StepEffect s t := by
  cases hw : s.waiting with
  | true =>
    cases hr : takeReset s.pending with
    | some rest => cases (step_waiting_reset hw hr).symm.trans h; exact .reset rest _
    | none => cases (step_waiting_stuck hw hr).symm.trans h
  | false =>
    cases hp : s.pending with
    | nil => cases (step_idle hw hp).symm.trans h; exact .quiet _ _
    | cons e es => exact hostEvent_effect hw ((step_event hw hp).symm.trans h)

/-! ## The invariant of the block -/

/-- The host's list and the replies are no part of the invariant. -/
theorem inv_queue (es : List HostEvent) (rs : List BusReply) (h : Safety.Inv s) :
    Safety.Inv { s with pending := es, replies := rs } := h

theorem faultRecordOk_of_clear (hf : s.fault = false) (hc : s.fcause = 0) (hi : s.finfo = 0) : Safety.faultRecordOk s :=
  ⟨fun _ => ⟨hc, hi⟩, fun ht => by simp [hf] at ht⟩

theorem inv_reset : Safety.Inv State.reset :=
  ⟨Memory.wf_reset, digestOk_initial, faultRecordOk_of_clear rfl rfl rfl, nofun, nofun⟩

theorem inv_resetBlock (s : State) : Safety.Inv (resetBlock s) := inv_reset

/-- A write that only stores a value keeps the invariant: parameters are written only while `CURVE_OK` = 0. -/
theorem inv_storeRegister {r : BusReg} {v : Word} (h : Safety.Inv s) (hstore : storeRegister s r v = some t) : Safety.Inv t := by
  obtain ⟨hmsg, hdigest, hfault, hcurve, hwait⟩ := h
  obtain ⟨hc, p, rfl⟩ | ⟨k, rfl⟩ | ⟨i, w, rfl⟩ | ⟨i, p, rfl⟩ := storeRegister_cases hstore
  · exact ⟨hmsg, hdigest, hfault, fun ht => by simp [hc] at ht, hwait⟩
  · exact ⟨wf_writeMsgWord s k v hmsg, by simpa using hdigest, by simpa [Safety.faultRecordOk] using hfault,
      by simpa [Safety.curveOkConstructed] using hcurve, by simpa [Safety.waitingOk] using hwait⟩
  · exact ⟨hmsg, hdigest, hfault, hcurve, hwait⟩
  · exact ⟨hmsg, hdigest, hfault, hcurve, hwait⟩

/-- Outside the FAULT state `CMD` is no part of the invariant. -/
theorem inv_latchCommand (w : Word) (h : Safety.Inv s) (hf : s.fault = false) : Safety.Inv (latchCommand w s) := by
  obtain ⟨hmsg, hdigest, ⟨hclear, -⟩, hcurve, hwait⟩ := h
  obtain ⟨hcause, hinfo⟩ := hclear hf
  exact ⟨hmsg, hdigest, faultRecordOk_of_clear hf hcause hinfo, hcurve, hwait⟩

namespace CommandEffect

variable {i : Instr}

theorem faultRecordOk (h : CommandEffect i s t) (hs : Safety.faultRecordOk s) : Safety.faultRecordOk t := by
  obtain ⟨hf, hc, hi⟩ | ⟨hf, hc, hi, -⟩ := h.faultRecord_cases
  · rwa [Safety.faultRecordOk, hf, hc, hi, h.cmd_eq]
  · exact ⟨fun ht => by simp [hf] at ht, fun _ => ⟨hc, hi.trans h.cmd_eq.symm⟩⟩

theorem curveOkConstructed (h : CommandEffect i s t) (hs : Safety.curveOkConstructed s) : Safety.curveOkConstructed t := by
  rw [Safety.curveOkConstructed, h.params_eq]
  obtain hc | ⟨-, -, hok⟩ := h.curveOk_cases
  · rwa [hc]
  · exact fun _ => hok

/-- Outside the FAULT state a command keeps the invariant, where none is waiting already. -/
theorem inv (h : CommandEffect i s t) (hs : Safety.Inv s) (hf : s.fault = false) (hw : s.waiting = false) : Safety.Inv t := by
  obtain ⟨hmsg, hdigest, hfault, hcurve, -⟩ := hs
  refine ⟨h.msg_eq ▸ hmsg, h.digestOk hdigest, h.faultRecordOk hfault, h.curveOkConstructed hcurve, fun ht => ?_⟩
  obtain hsame | ⟨-, hok, hkept⟩ := h.waiting_cases
  · simp [ht, hw] at hsame
  · exact ⟨hok, hkept.trans hf⟩

end CommandEffect

theorem inv_issue {w : Word} (h : Safety.Inv s) (hf : s.fault = false) (hw : s.waiting = false) (hi : issue w s = .next t) :
    Safety.Inv t := by
  obtain ⟨i, heffect⟩ := issue_effect hi
  exact heffect.inv (inv_latchCommand w h hf) hf hw

theorem StepEffect.inv (h : StepEffect s t) (hs : Safety.Inv s) : Safety.Inv t := by
  cases h with
  | quiet es rs => exact inv_queue es rs hs
  | reset es rs => exact inv_queue es rs (inv_resetBlock s)
  | stored es r v u hstore => exact inv_queue u.pending _ (inv_storeRegister (inv_queue es s.replies hs) hstore)
  | issued es w u rs hwait hfault hissue =>
    exact inv_queue u.pending rs (inv_issue (inv_queue es s.replies hs) hfault hwait hissue)

/-! ## The reset values -/

theorem resetImage_reset : resetImage State.reset := by
  refine ⟨fun i => ?_, fun i => ?_, rfl, rfl, rfl, rfl, rfl, rfl, rfl, rfl, rfl, fun k => rfl⟩
  · simp [readScalar, State.reset]
  · simp [readPointReg, State.reset, infinityImage]

/-- What a reset leaves alone is no part of the reset values. -/
theorem resetImage_resetBlock (s : State) (es : List HostEvent) (rs : List BusReply) :
    resetImage { resetBlock s with pending := es, replies := rs } := resetImage_reset

/-! ## Refused writes -/

/-- A write to a register that does not take the word is refused, in the FAULT state and outside it. -/
theorem busWrite_refused {off : Nat} {v : Word} {r : BusReg} (hr : busRegister off = some r) (hctrl : r ≠ .ctrl)
    (hcmd : r ≠ .cmd) (hstore : storeRegister s r v = none) : busWrite off v s = .next (reply .busError s) := by
  have hwrite : busWrite off v s = writeRegister r v s := by
    rw [busWrite, hr]
    split
    next h => cases h
    next h => exact absurd (Option.some.inj h) hctrl
    next h => rw [Option.some.inj h]
  obtain h | ⟨-, h, -⟩ | ⟨-, u, h, -⟩ := writeRegister_cases r v s
  · rw [hwrite, h]
  · exact absurd h hcmd
  · cases hstore.symm.trans h

theorem busWrite_hole {off : Nat} {v : Word} (h : busRegister off = none) : busWrite off v s = .next (reply .busError s) := by
  rw [busWrite, h]

/-- A read-only register (20_memory.md R33). -/
theorem busWrite_readOnly {off : Nat} {v : Word} {r : BusReg} (hr : busRegister off = some r)
    (h : r = .status ∨ r = .fcause ∨ r = .finfo ∨ (∃ j, r = .h j) ∨ r = .hlenHi ∨ r = .hlenLo) :
    busWrite off v s = .next (reply .busError s) := by
  obtain rfl | rfl | rfl | ⟨j, rfl⟩ | rfl | rfl := h <;> exact busWrite_refused hr nofun nofun rfl

theorem writeParams_locked (p : Params) (hc : s.curveOk = true) : writeParams s p = none := by simp [writeParams, hc]

/-- A parameter register while `CURVE_OK` = 1 (10_state.md R15). -/
theorem busWrite_locked {off : Nat} {v : Word} {r : BusReg} (hr : busRegister off = some r) (hc : s.curveOk = true)
    (h : r = .ca ∨ r = .cb ∨ r = .ginf ∨ ∃ j, r = .cp j ∨ r = .cn j ∨ r = .gx j ∨ r = .gy j) :
    busWrite off v s = .next (reply .busError s) := by
  obtain rfl | rfl | rfl | ⟨j, rfl | rfl | rfl | rfl⟩ := h <;> exact busWrite_refused hr nofun nofun (writeParams_locked _ hc)

/-- Settles O18: a step is quiet, a reset, a store or a command, and each of the four keeps the invariant. -/
theorem stepKeepsInvariant : Obligations.StepKeepsInvariant := by
  intro s t hs h
  exact (step_effect h).inv hs

/-- Settles O17. -/
theorem invariantAtReset : Obligations.InvariantAtReset := inv_reset

/-- Settles O15. -/
theorem resetStateValues : Obligations.ResetStateValues := ⟨resetImage_reset, 0, fun _ => rfl⟩

/-- Settles O10: whatever the reason for refusing, the answer is the bus error alone. -/
theorem refusedTransactionsChangeNothing : Obligations.RefusedTransactionsChangeNothing := by
  intro s e rest hp hw h
  rw [step_event hw hp]
  obtain ⟨width, off, rfl⟩ | ⟨width, off, rfl⟩ | ⟨off, v, rfl, hr⟩ | ⟨off, v, r, rfl, hr, h⟩ |
    ⟨off, v, r, rfl, hr, hc, h⟩ := h
  · rfl
  · rfl
  · exact busWrite_hole hr
  · exact busWrite_readOnly hr h
  · exact busWrite_locked hr hc h

/-- While `CURVE_OK` = 1 a store writes no parameter register. -/
theorem storeRegister_params {r : BusReg} {v : Word} (h : storeRegister s r v = some t) (hc : s.curveOk = true) :
    t.params = s.params ∧ t.curveOk = true := by
  obtain ⟨hoff, -⟩ | ⟨k, rfl⟩ | ⟨i, w, rfl⟩ | ⟨i, p, rfl⟩ := storeRegister_cases h
  · simp [hc] at hoff
  · exact ⟨writeMsgWord_params s k v, (writeMsgWord_curveOk s k v).trans hc⟩
  · exact ⟨rfl, hc⟩
  · exact ⟨rfl, hc⟩

/-- No command clears `CURVE_OK` or writes a parameter register. -/
theorem issue_params {w : Word} (h : issue w s = .next t) (hc : s.curveOk = true) : t.params = s.params ∧ t.curveOk = true := by
  obtain ⟨i, heffect⟩ := issue_effect h
  obtain hsame | ⟨-, hset, -⟩ := heffect.curveOk_cases
  · exact ⟨heffect.params_eq, hsame.trans hc⟩
  · exact ⟨heffect.params_eq, hset⟩

/-- Settles O19: of the kinds of step only a reset touches the parameters of a constructed curve. -/
theorem constructedParametersAreImmutable : Obligations.ConstructedParametersAreImmutable := by
  intro s t hc h
  cases step_effect h with
  | quiet es rs => exact .inl ⟨rfl, hc⟩
  | reset es rs => exact .inr (resetImage_resetBlock s es rs)
  | stored es r v u hstore =>
    have hkept := storeRegister_params hstore hc
    exact .inl hkept
  | issued es w u rs _ _ hissue =>
    have hkept := issue_params hissue hc
    exact .inl hkept

/-- Settles O26: the frame lemmas of `CommandEffect`, put together. -/
theorem commandFrameOutsideRegisters : Obligations.CommandFrameOutsideRegisters := by
  intro i s t h
  have he := exec_effect h
  refine ⟨he.params_eq, he.cmd_eq, he.msg_eq, he.epoch_eq, he.readMsg_eq, he.pending_eq, he.replies_eq, ?_, he.digest_eq,
    fun hi => ⟨he.port_eq hi, he.waiting_eq hi⟩, ?_⟩
  · exact he.curveOk_cases.imp_right fun ⟨hi, hset, _⟩ => ⟨hi, hset⟩
  · exact he.faultRecord_cases.imp_right fun ⟨hf, _, hi, _⟩ => ⟨hf, hi⟩

end Sys2Proof.Machine
end

section
/-! SUPPORT. Two runs of a command on states that differ in `T` alone (10_state.md R19). -/

namespace Sys2Proof.Machine

open Sys2Proof.Claims

/-- The answers of two runs that differ only in `T` beforehand, the second having `T` = `b`: each run keeps its own `T`, which a
command that `writes` it does only in a fault, or both end in one state. -/
inductive FlagBlind (writes b : Bool) : Result → Result → Prop where
  | kept (t : State) (h : writes = true → t.fault = true) : FlagBlind writes b (.next t) (.next (setT t b))
  | written (t : State) : FlagBlind writes b (.next t) (.next t)

variable {s : State} {writes b : Bool}

/-! ## The operands do not depend on `T` -/

@[simp] theorem scalar_setT (s : State) (b : Bool) (i : SReg) : scalar (setT s b) i = scalar s i := rfl
@[simp] theorem point_setT (s : State) (b : Bool) (i : PReg) : point (setT s b) i = point s i := rfl
@[simp] theorem memRead_setT (s : State) (b : Bool) (addr n : Nat) : memRead (setT s b) addr n = memRead s addr n := rfl
@[simp] theorem selectedModulus_setT (s : State) (b : Bool) (m : ModSel) :
    selectedModulus (setT s b) m = selectedModulus s m := rfl

/-! ## The shared operations -/

theorem flagBlind_raiseFault (c : FaultCause) : FlagBlind writes b (raiseFault c s) (raiseFault c (setT s b)) :=
  .kept (takeFault c s) fun _ => rfl

theorem flagBlind_fieldCommand (rd : SReg) (m : ModSel) (bad : Nat → Bool) (f : Nat → Except FaultCause Nat) :
    FlagBlind false b (fieldCommand s rd m bad f) (fieldCommand (setT s b) rd m bad f) := by
  cases hb : bad (selectedModulus s m) with
  | true => rw [fieldCommand_bad hb, fieldCommand_bad (s := setT s b) hb]; exact flagBlind_raiseFault .modulus
  | false =>
    cases hf : f (selectedModulus s m) with
    | ok v => rw [fieldCommand_ok hb hf, fieldCommand_ok (s := setT s b) hb hf]; exact .kept (setScalar s rd v) nofun
    | error c => rw [fieldCommand_error hb hf, fieldCommand_error (s := setT s b) hb hf]; exact flagBlind_raiseFault c

theorem flagBlind_withCurve {k k' : Curve → Result} (h : ∀ c, FlagBlind writes b (k c) (k' c)) :
    FlagBlind writes b (withCurve s k) (withCurve (setT s b) k') := by
  cases hc : s.curveOk with
  | true => rw [withCurve_on hc, withCurve_on (s := setT s b) hc]; exact h _
  | false => rw [withCurve_off hc, withCurve_off (s := setT s b) hc]; exact flagBlind_raiseFault .noCurve

theorem flagBlind_pointCommand (pd : PReg) (f : Curve → Except FaultCause Point) :
    FlagBlind false b (withCurve s fun c => finishPoint s pd (f c))
      (withCurve (setT s b) fun c => finishPoint (setT s b) pd (f c)) := by
  refine flagBlind_withCurve fun c => ?_
  cases f c with
  | ok v => exact .kept (setPoint s pd v) nofun
  | error e => exact flagBlind_raiseFault e

/-! ## One lemma per command with checks of its own -/

theorem flagBlind_execSqrt (rd rs1 : SReg) (m : ModSel) :
    FlagBlind true b (execSqrt rd rs1 m s) (execSqrt rd rs1 m (setT s b)) := by
  unfold execSqrt
  rw [selectedModulus_setT, scalar_setT]
  split
  · exact flagBlind_raiseFault .modulus
  · split
    next c _ => exact flagBlind_raiseFault c
    next => exact .written _
    next => exact .written _

theorem flagBlind_execCinit : FlagBlind false b (execCinit s) (execCinit (setT s b)) := by
  unfold execCinit
  rw [setT_params]
  split
  next c _ => exact flagBlind_raiseFault c
  next => exact .kept (setCurveOk s) nofun

theorem flagBlind_execPrec (pd : PReg) (rs1 : SReg) : FlagBlind true b (execPrec pd rs1 s) (execPrec pd rs1 (setT s b)) := by
  refine flagBlind_withCurve fun c => ?_
  rw [scalar_setT]
  split
  · exact flagBlind_raiseFault .range
  · split
    next e _ => exact flagBlind_raiseFault e
    next => exact .written _
    next => exact .written _

theorem flagBlind_execKeygen (rd : SReg) (pd : PReg) : FlagBlind false b (execKeygen rd pd s) (execKeygen rd pd (setT s b)) := by
  refine flagBlind_withCurve fun c => ?_
  rw [setT_port]
  split
  next after _ => exact .kept (awaitSource after s) nofun
  next d after _ =>
    dsimp only
    split
    · exact .kept (takeFault .rngRange { s with port := after }) nofun
    · split
      next e _ => exact .kept (takeFault e { s with port := after }) nofun
      next Q _ => exact .kept (setPoint (setScalar { s with port := after } rd d) pd Q) nofun

theorem flagBlind_execHappend (len : BitVec 12) : FlagBlind false b (execHappend len s) (execHappend len (setT s b)) := by
  unfold execHappend
  rw [setT_digest, memRead_setT]
  split
  · exact flagBlind_raiseFault .hashLen
  · exact .kept { s with digest := _ } nofun

theorem flagBlind_execHdigest (rd : SReg) : FlagBlind false b (execHdigest rd s) (execHdigest rd (setT s b)) := by
  rw [execHdigest, execHdigest, digestValue_ok, digestValue_ok]
  exact .kept (writeScalar s rd _) nofun

theorem flagBlind_execSign (rdR rdS rsD : SReg) :
    FlagBlind false b (execSign rdR rdS rsD s) (execSign rdR rdS rsD (setT s b)) := by
  refine flagBlind_withCurve fun c => ?_
  rw [scalar_setT, setT_digest, setT_port]
  split
  · exact flagBlind_raiseFault .range
  · cases c.signLoop s.digest (scalar s rsD) Config.signRetryLimit s.port with
    | signed r sg q => exact .kept (setScalar (setScalar { s with port := q } rdR r) rdS sg) nofun
    | faulted e q => exact .kept (takeFault e { s with port := q }) nofun
    | silent q => exact .kept (awaitSource q s) nofun

theorem flagBlind_execVerify (rsR rsS : SReg) (psQ : PReg) :
    FlagBlind true b (execVerify rsR rsS psQ s) (execVerify rsR rsS psQ (setT s b)) := by
  refine flagBlind_withCurve fun c => ?_
  rw [scalar_setT, scalar_setT, point_setT, setT_digest]
  split
  next e _ => exact flagBlind_raiseFault e
  next => exact .written _

/-- No command's behaviour depends on `T`. -/
theorem flagBlind_exec (i : Instr) (s : State) (b : Bool) : FlagBlind (writesT i) b (exec i s) (exec i (setT s b)) := by
  cases i with
  | modadd rd _ _ m => simp only [exec, execModadd]; exact flagBlind_fieldCommand rd m _ _
  | modsub rd _ _ m => simp only [exec, execModsub]; exact flagBlind_fieldCommand rd m _ _
  | modmul rd _ _ m => simp only [exec, execModmul]; exact flagBlind_fieldCommand rd m _ _
  | montmul rd _ _ m => simp only [exec, execMontmul]; exact flagBlind_fieldCommand rd m _ _
  | modexp rd _ _ m => simp only [exec, execModexp]; exact flagBlind_fieldCommand rd m _ _
  | modinv rd _ m => simp only [exec, execModinv]; exact flagBlind_fieldCommand rd m _ _
  | sqrt rd rs1 m => exact flagBlind_execSqrt rd rs1 m
  | cinit => exact flagBlind_execCinit
  | pchk ps1 => exact flagBlind_withCurve fun _ => .written _
  | prec pd rs1 => exact flagBlind_execPrec pd rs1
  | padd pd _ _ => simp only [exec, execPadd]; exact flagBlind_pointCommand pd _
  | pdbl pd _ => simp only [exec, execPdbl]; exact flagBlind_pointCommand pd _
  | smul pd _ _ => simp only [exec, execSmul]; exact flagBlind_pointCommand pd _
  | keygen rd pd => exact flagBlind_execKeygen rd pd
  | hreset => exact .kept { s with digest := .initial } nofun
  | happend len => exact flagBlind_execHappend len
  | hdigest rd => exact flagBlind_execHdigest rd
  | sign rdR rdS rsD => exact flagBlind_execSign rdR rdS rsD
  | verify rsR rsS psQ => exact flagBlind_execVerify rsR rsS psQ

/-- Settles O24: the frame of `T` is that of `CommandEffect`, and the two runs are those of `FlagBlind`. -/
theorem onlyFourCommandsTouchT : Obligations.OnlyFourCommandsTouchT := by
  constructor
  · intro i s t h hkeeps
    obtain hi | ⟨hs, ht⟩ := hkeeps
    · exact (exec_effect h).t_eq hi
    · exact (exec_effect h).t_eq_of_fault hs ht
  · intro i s t b h
    have hblind := flagBlind_exec i s b
    rw [h] at hblind
    generalize hr : exec i (setT s b) = r at hblind
    cases hblind with
    | kept _ hfault => exact ⟨setT t b, hr, rfl, fun hi _ hf => by simp [hfault hi] at hf⟩
    | written => exact ⟨t, hr, rfl, fun _ _ _ => rfl⟩

end Sys2Proof.Machine
end
section
/-! SUPPORT. The coordinates of infinity are ignored (10_state.md R13): two runs on point operands that are the same point. -/

namespace Sys2Proof.Machine

/-! ## The point functions -/

/-- Equal records, or two records of infinity. -/
def SamePoint (P P' : Point) : Prop := P = P' ∨ (P.inf = true ∧ P'.inf = true)

/-- The same fault, or results that are the same point. -/
def SameAnswer (r r' : Except FaultCause Point) : Prop :=
  (∃ e, r = .error e ∧ r' = .error e) ∨ (∃ P P', r = .ok P ∧ r' = .ok P' ∧ SamePoint P P')

theorem SameAnswer.refl (r : Except FaultCause Point) : SameAnswer r r := by
  cases r with
  | error e => exact .inl ⟨e, rfl, rfl⟩
  | ok P => exact .inr ⟨P, P, rfl, rfl, .inl rfl⟩

theorem SamePoint.answer {P P' : Point} (h : SamePoint P P') : SameAnswer (.ok P) (.ok P') := .inr ⟨P, P', rfl, rfl, h⟩

variable {c : Curve} {P P' Q Q' : Point}

theorem SamePoint.inf_eq (h : SamePoint P P') : P.inf = P'.inf := by
  obtain rfl | ⟨hP, hP'⟩ := h
  · rfl
  · rw [hP, hP']

theorem SamePoint.contains_eq (h : SamePoint P P') : c.contains P = c.contains P' := by
  obtain rfl | ⟨hP, hP'⟩ := h
  · rfl
  · simp [Curve.contains, hP, hP']

theorem SamePoint.canonical_eq (h : SamePoint P P') : c.canonical P = c.canonical P' := by
  obtain rfl | ⟨hP, hP'⟩ := h
  · rfl
  · simp [Curve.canonical, hP, hP']

theorem SamePoint.regOfPoint_eq (h : SamePoint P P') : regOfPoint P = regOfPoint P' := by
  obtain rfl | ⟨hP, hP'⟩ := h
  · rfl
  · simp [regOfPoint, hP, hP']

theorem add_infinity_right (hr : c.canonical P = true ∧ c.canonical Q = true) (hc : c.contains P = true ∧ c.contains Q = true)
    (hP : ¬ P.inf = true) (hQ : Q.inf = true) : c.add P Q = .ok P := by
  rw [Curve.add, if_neg (not_not.mpr hr), if_neg (not_not.mpr hc), if_neg hP, if_pos hQ]

/-- `add` answers the same on the same points: infinity is met before a coordinate is read (42_curve.md R104). -/
theorem add_same (hP : SamePoint P P') (hQ : SamePoint Q Q') : SameAnswer (c.add P Q) (c.add P' Q') := by
  by_cases hr : c.canonical P = true ∧ c.canonical Q = true
  case neg =>
    have hr' : ¬(c.canonical P' = true ∧ c.canonical Q' = true) := by rwa [← hP.canonical_eq, ← hQ.canonical_eq]
    exact .inl ⟨.range, add_range hr, add_range hr'⟩
  have hr' : c.canonical P' = true ∧ c.canonical Q' = true := by rwa [← hP.canonical_eq, ← hQ.canonical_eq]
  by_cases hc : c.contains P = true ∧ c.contains Q = true
  case neg =>
    have hc' : ¬(c.contains P' = true ∧ c.contains Q' = true) := by rwa [← hP.contains_eq, ← hQ.contains_eq]
    exact .inl ⟨.notOnCurve, add_notOnCurve hr hc, add_notOnCurve hr' hc'⟩
  have hc' : c.contains P' = true ∧ c.contains Q' = true := by rwa [← hP.contains_eq, ← hQ.contains_eq]
  by_cases hi : P.inf = true
  · rw [add_infinity_left hr hc hi, add_infinity_left hr' hc' (hP.inf_eq ▸ hi)]
    exact hQ.answer
  · obtain rfl : P = P' := hP.resolve_right fun h => hi h.1
    obtain rfl | ⟨hq, hq'⟩ := hQ
    · exact .refl _
    · rw [add_infinity_right hr hc hi hq, add_infinity_right hr' hc' hi hq']
      exact .refl _

theorem smulLoop_same (fuel rem : Nat) (hP : SamePoint P P') (hQ : SamePoint Q Q') :
    SameAnswer (c.smulLoop fuel P Q rem) (c.smulLoop fuel P' Q' rem) := by
  induction fuel generalizing P P' Q Q' rem with
  | zero => exact hP.answer
  | succ fuel ih =>
    have hacc : SameAnswer (if rem % 2 = 1 then c.add P Q else .ok P) (if rem % 2 = 1 then c.add P' Q' else .ok P') := by
      split
      · exact add_same hP hQ
      · exact hP.answer
    unfold Curve.smulLoop
    by_cases hrem : rem = 0
    · rw [if_pos hrem, if_pos hrem]; exact hP.answer
    rw [if_neg hrem, if_neg hrem]
    obtain ⟨e, h, h'⟩ | ⟨R, R', h, h', hR⟩ := hacc
    · rw [h, h']; exact .inl ⟨e, rfl, rfl⟩
    rw [h, h']
    obtain ⟨e, hd, hd'⟩ | ⟨B, B', hd, hd', hB⟩ := add_same (c := c) hQ hQ
    · simp only [hd, hd']; exact .inl ⟨e, rfl, rfl⟩
    · simp only [hd, hd']; exact ih _ hR hB

theorem smul_same (k : Nat) (h : SamePoint P P') : SameAnswer (c.smul P k) (c.smul P' k) :=
  smulLoop_same _ k (.inl rfl) h

/-! ## The equations of VERIFY -/

theorem verifyPoint_same (r u1 u2 : Nat) (h : SamePoint Q Q') : c.verifyPoint r u1 u2 Q = c.verifyPoint r u1 u2 Q' := by
  unfold Curve.verifyPoint
  cases c.smul c.g u1 with
  | error e => rfl
  | ok A =>
    obtain ⟨e, hs, hs'⟩ | ⟨B, B', hs, hs', hB⟩ := smul_same (c := c) u2 h
    · simp only [hs, hs']
    obtain ⟨e, ha, ha'⟩ | ⟨R, R', ha, ha', hR⟩ := add_same (c := c) (.inl (Eq.refl A)) hB
    · simp only [hs, hs', ha, ha']
    · simp only [hs, hs', ha, ha']
      obtain rfl | ⟨hi, hi'⟩ := hR
      · rfl
      · simp [hi, hi']

theorem verifies_same (d : DigestState) (r s : Nat) (h : SamePoint Q Q') : c.verifies d r s Q = c.verifies d r s Q' := by
  have hequations : ∀ e, c.verifyEquations e r s Q = c.verifyEquations e r s Q' := by
    intro e
    simp only [Curve.verifyEquations, verifyPoint_same _ _ _ h]
  unfold Curve.verifies
  rw [h.canonical_eq, h.contains_eq]
  obtain ⟨e, hs, hs'⟩ | ⟨V, V', hs, hs', hV⟩ := smul_same (c := c) c.n h
  · simp only [hs, hs']
  · simp only [hs, hs', hV.inf_eq, hequations]

/-! ## Two runs of a command -/

/-- When the first run ends in a next state, so does the second, and they agree on `T`, `FAULT`, the fault's cause and, outside a
fault, the point registers `ds`. -/
def AgreeOn (ds : List PReg) (r r' : Result) : Prop :=
  ∀ t, r = .next t → ∃ t', r' = .next t' ∧ t'.t = t.t ∧ t'.fault = t.fault ∧ t'.fcause = t.fcause ∧
    (t.fault = false → ∀ d ∈ ds, readPointReg t' d = readPointReg t d)

variable {s s' : State} {ds : List PReg}

theorem agreeOn_raiseFault (e : FaultCause) (ht : s'.t = s.t) : AgreeOn ds (raiseFault e s) (raiseFault e s') := by
  intro t h
  cases h
  exact ⟨_, rfl, ht, rfl, rfl, fun hf => by simp at hf⟩

/-- The state with the operand in `P[a]` replaced by another record of infinity. -/
def withInfinityAt (s : State) (a : PReg) (x y : Wide) : State := writePointReg s a { x := x, y := y, inf := true }

variable {a : PReg} {x y : Wide}

theorem samePoint_operand (ha : (readPointReg s a).inf = true) (p : PReg) :
    SamePoint (point s p) (point (withInfinityAt s a x y) p) := by
  by_cases hp : p = a
  · subst hp
    exact .inr ⟨ha, by simp [withInfinityAt, point, pointOfReg]⟩
  · exact .inl (by rw [withInfinityAt, point, point, readPointReg_writePointReg_other _ _ _ _ hp])

theorem agreeOn_withCurve {k k' : Curve → Result} (h : ∀ c, AgreeOn ds (k c) (k' c)) :
    AgreeOn ds (withCurve s k) (withCurve (withInfinityAt s a x y) k') := by
  cases hc : s.curveOk with
  | true => rw [withCurve_on hc, withCurve_on (s := withInfinityAt s a x y) hc]; exact h _
  | false => rw [withCurve_off hc, withCurve_off (s := withInfinityAt s a x y) hc]; exact agreeOn_raiseFault .noCurve rfl

theorem agreeOn_finishPoint (pd : PReg) {r r' : Except FaultCause Point} (h : SameAnswer r r') :
    AgreeOn [pd] (finishPoint s pd r) (finishPoint (withInfinityAt s a x y) pd r') := by
  obtain ⟨e, rfl, rfl⟩ | ⟨V, V', rfl, rfl, hV⟩ := h
  · exact agreeOn_raiseFault e rfl
  · intro t h
    cases h
    refine ⟨_, rfl, rfl, rfl, rfl, fun _ d hd => ?_⟩
    rw [List.mem_singleton.mp hd, readPointReg_setPoint_same, readPointReg_setPoint_same, hV.regOfPoint_eq]

theorem agreeOn_setT (b : Bool) : AgreeOn [] (.next (setT s b)) (.next (setT (withInfinityAt s a x y) b)) := by
  intro t h
  cases h
  exact ⟨_, rfl, rfl, rfl, rfl, fun _ d hd => absurd hd List.not_mem_nil⟩

theorem agreeOn_execPchk (ha : (readPointReg s a).inf = true) (p : PReg) :
    AgreeOn [] (execPchk p s) (execPchk p (withInfinityAt s a x y)) := by
  refine agreeOn_withCurve fun c => ?_
  rw [← (samePoint_operand ha p).contains_eq]
  exact agreeOn_setT _

theorem agreeOn_execVerify (ha : (readPointReg s a).inf = true) (rsR rsS : SReg) (p : PReg) :
    AgreeOn [] (execVerify rsR rsS p s) (execVerify rsR rsS p (withInfinityAt s a x y)) := by
  refine agreeOn_withCurve fun c => ?_
  have hverifies : c.verifies (withInfinityAt s a x y).digest (scalar (withInfinityAt s a x y) rsR)
      (scalar (withInfinityAt s a x y) rsS) (point (withInfinityAt s a x y) p) =
      c.verifies s.digest (scalar s rsR) (scalar s rsS) (point s p) := (verifies_same _ _ _ (samePoint_operand ha p)).symm
  rw [hverifies]
  cases c.verifies s.digest (scalar s rsR) (scalar s rsS) (point s p) with
  | error e => exact agreeOn_raiseFault e rfl
  | ok b => exact agreeOn_setT b

/-- Settles O28: the commands reach the coordinates of a point operand through `contains`, `add`, `smul` and `verifies`, none of
which reads those of infinity. -/
theorem infinityCoordinatesAreIgnored : Obligations.InfinityCoordinatesAreIgnored := by
  intro s t a pd p1 p2 r1 r2 x y i ha hi _ h
  have hsame : ∀ p, SamePoint (point s p) (point (withInfinityAt s a x y) p) := samePoint_operand ha
  obtain rfl | rfl | rfl | rfl | rfl := hi
  · exact agreeOn_execPchk ha p1 t h
  · exact agreeOn_withCurve (fun c => agreeOn_finishPoint pd (add_same (hsame p1) (hsame p2))) t h
  · exact agreeOn_withCurve (fun c => agreeOn_finishPoint pd (add_same (hsame p1) (hsame p1))) t h
  · exact agreeOn_withCurve (fun c => agreeOn_finishPoint pd (smul_same (scalar s r1) (hsame p1))) t h
  · exact agreeOn_execVerify ha r1 r2 p1 t h

end Sys2Proof.Machine
end

section
/-! SUPPORT. The register map both ways: the offset of a register, the register at an offset, and the offsets that name none. -/

namespace Sys2Proof.Machine

/-- The byte offset of a register (20_memory.md R33, R34, R35, R36). -/
def offsetOf : BusReg → Nat
  | .cmd => 0x000
  | .status => 0x004
  | .fcause => 0x008
  | .finfo => 0x00C
  | .ctrl => 0x010
  | .ca => 0x020
  | .cb => 0x024
  | .ginf => 0x028
  | .cp j => 0x040 + 4 * j.toNat
  | .cn j => 0x060 + 4 * j.toNat
  | .gx j => 0x080 + 4 * j.toNat
  | .gy j => 0x0A0 + 4 * j.toNat
  | .h j => 0x0C0 + 4 * j.toNat
  | .hlenHi => 0x0E0
  | .hlenLo => 0x0E4
  | .msg k => 0x100 + 4 * k.toNat
  | .scalar i j => 0x200 + 0x20 * i.toNat + 4 * j.toNat
  | .pointX i j => 0x400 + 0x80 * i.toNat + 4 * j.toNat
  | .pointY i j => 0x420 + 0x80 * i.toNat + 4 * j.toNat
  | .pointInf i => 0x440 + 0x80 * i.toNat

variable {off row word : Nat} {r : BusReg}

/-! ## From the register to its offset -/

/-- The window is looked up by row and word. -/
theorem busRegister_of_row (hrow : row < 64) (hword : word < 8) (hoff : off = 32 * row + 4 * word) :
    busRegister off = windowReg row word := by
  have haligned : off % 4 = 0 ∧ off < Config.windowBytes := by rw [Config.windowBytes]; omega
  have hr : off / 32 = row := by omega
  have hw : off / 4 % 8 = word := by omega
  rw [busRegister, if_pos haligned, hr, hw]

/-- The rows above the eighth hold the message buffer, the scalar registers, one row each, and the point registers, four rows each. -/
theorem windowReg_of_le (h : 8 ≤ row) :
    windowReg row word =
      if row < 16 then some (.msg (BitVec.ofNat 6 (8 * (row - 8) + word)))
      else if row < 32 then some (.scalar (BitVec.ofNat 4 (row - 16)) (BitVec.ofNat 3 word))
      else pointReg (BitVec.ofNat 3 ((row - 32) / 4)) ((row - 32) % 4) word := by
  unfold windowReg
  split
  case h_9 => rfl
  all_goals omega

/-- Row `q` of point register `i`. -/
theorem busRegister_of_pointRow (i : PReg) {q : Nat} (hq : q < 4) (hword : word < 8)
    (hoff : off = 0x400 + 0x80 * i.toNat + 0x20 * q + 4 * word) : busRegister off = pointReg i q word := by
  have hi := i.isLt
  have hindex : (32 + 4 * i.toNat + q - 32) / 4 = i.toNat := by omega
  have hrow : (32 + 4 * i.toNat + q - 32) % 4 = q := by omega
  rw [busRegister_of_row (row := 32 + 4 * i.toNat + q) (by omega) hword (by omega), windowReg_of_le (by omega),
    if_neg (by omega), if_neg (by omega), hindex, hrow, BitVec.ofNat_toNat, BitVec.setWidth_eq]

/-- Every register stands at its offset. -/
theorem busRegister_offsetOf (r : BusReg) : busRegister (offsetOf r) = some r := by
  cases r with
  | cmd | status | fcause | finfo | ctrl | ca | cb | ginf | hlenHi | hlenLo => rfl
  | cp j => exact (busRegister_of_row (row := 2) (by omega) j.isLt rfl).trans (by simp [windowReg])
  | cn j => exact (busRegister_of_row (row := 3) (by omega) j.isLt rfl).trans (by simp [windowReg])
  | gx j => exact (busRegister_of_row (row := 4) (by omega) j.isLt rfl).trans (by simp [windowReg])
  | gy j => exact (busRegister_of_row (row := 5) (by omega) j.isLt rfl).trans (by simp [windowReg])
  | h j => exact (busRegister_of_row (row := 6) (by omega) j.isLt rfl).trans (by simp [windowReg])
  | msg k =>
    have hk := k.isLt
    have hindex : 8 * (8 + k.toNat / 8 - 8) + k.toNat % 8 = k.toNat := by omega
    rw [busRegister_of_row (row := 8 + k.toNat / 8) (word := k.toNat % 8) (by omega) (by omega) (by rw [offsetOf]; omega),
      windowReg_of_le (by omega), if_pos (by omega), hindex]
    simp
  | scalar i j =>
    have hi := i.isLt
    rw [busRegister_of_row (row := 16 + i.toNat) (by omega) j.isLt (by rw [offsetOf]; omega),
      windowReg_of_le (by omega), if_neg (by omega), if_pos (by omega)]
    simp
  | pointX i j =>
    exact (busRegister_of_pointRow i (q := 0) (by omega) j.isLt (by rw [offsetOf]; omega)).trans (by simp [pointReg])
  | pointY i j =>
    exact (busRegister_of_pointRow i (q := 1) (by omega) j.isLt (by rw [offsetOf]; omega)).trans (by simp [pointReg])
  | pointInf i => exact busRegister_of_pointRow i (q := 2) (word := 0) (by omega) (by omega) (by rw [offsetOf]; omega)

/-! ## From the offset to the register -/

theorem controlReg_cases (word : Nat) :
    (5 ≤ word ∧ controlReg word = none) ∨ ∃ r, controlReg word = some r ∧ offsetOf r = 4 * word := by
  match word with
  | 0 | 1 | 2 | 3 | 4 => exact .inr ⟨_, rfl, rfl⟩
  | _ + 5 => exact .inl ⟨by omega, rfl⟩

theorem coefficientReg_cases (word : Nat) :
    (3 ≤ word ∧ coefficientReg word = none) ∨ ∃ r, coefficientReg word = some r ∧ offsetOf r = 0x020 + 4 * word := by
  match word with
  | 0 | 1 | 2 => exact .inr ⟨_, rfl, rfl⟩
  | _ + 3 => exact .inl ⟨by omega, rfl⟩

theorem lengthReg_cases (word : Nat) :
    (2 ≤ word ∧ lengthReg word = none) ∨ ∃ r, lengthReg word = some r ∧ offsetOf r = 0x0E0 + 4 * word := by
  match word with
  | 0 | 1 => exact .inr ⟨_, rfl, rfl⟩
  | _ + 2 => exact .inl ⟨by omega, rfl⟩

theorem toNat_ofNat_of_lt_eight (h : word < 8) : (BitVec.ofNat 3 word).toNat = word := Nat.mod_eq_of_lt h

theorem pointReg_cases (i : PReg) (hword : word < 8) :
    ((row = 2 ∧ 1 ≤ word ∨ 3 ≤ row) ∧ pointReg i row word = none) ∨
    ∃ r, pointReg i row word = some r ∧ offsetOf r = 0x400 + 0x80 * i.toNat + 0x20 * row + 4 * word := by
  match row with
  | 0 => exact .inr ⟨_, rfl, by rw [offsetOf, toNat_ofNat_of_lt_eight hword]; omega⟩
  | 1 => exact .inr ⟨_, rfl, by rw [offsetOf, toNat_ofNat_of_lt_eight hword]; omega⟩
  | 2 =>
    by_cases h : word = 0
    · exact .inr ⟨_, if_pos h, by rw [offsetOf, h]; omega⟩
    · exact .inl ⟨by omega, if_neg h⟩
  | _ + 3 => exact .inl ⟨by omega, rfl⟩

/-- The places of the window that hold no register. -/
def reservedAt (row word : Nat) : Prop :=
  (row = 0 ∧ 5 ≤ word) ∨ (row = 1 ∧ 3 ≤ word) ∨ (row = 7 ∧ 2 ≤ word) ∨
  (32 ≤ row ∧ ((row - 32) % 4 = 2 ∧ 1 ≤ word ∨ 3 ≤ (row - 32) % 4))

/-- Everything a place of the window can hold: nothing, or the register whose offset is that of the place. -/
theorem windowReg_cases (hrow : row < 64) (hword : word < 8) :
    (reservedAt row word ∧ windowReg row word = none) ∨
    ∃ r, windowReg row word = some r ∧ offsetOf r = 32 * row + 4 * word := by
  have hwide : ∀ mk : BitVec 3 → BusReg, (∀ j, offsetOf (mk j) = 32 * row + 4 * j.toNat) →
      ∃ r, some (mk (BitVec.ofNat 3 word)) = some r ∧ offsetOf r = 32 * row + 4 * word := fun mk hmk =>
    ⟨_, rfl, by rw [hmk, toNat_ofNat_of_lt_eight hword]⟩
  match row with
  | 0 =>
    obtain ⟨h, e⟩ | ⟨r, e, h⟩ := controlReg_cases word
    · exact .inl ⟨.inl ⟨rfl, h⟩, e⟩
    · exact .inr ⟨r, e, by omega⟩
  | 1 =>
    obtain ⟨h, e⟩ | ⟨r, e, h⟩ := coefficientReg_cases word
    · exact .inl ⟨.inr (.inl ⟨rfl, h⟩), e⟩
    · exact .inr ⟨r, e, by omega⟩
  | 2 => exact .inr (hwide .cp fun _ => rfl)
  | 3 => exact .inr (hwide .cn fun _ => rfl)
  | 4 => exact .inr (hwide .gx fun _ => rfl)
  | 5 => exact .inr (hwide .gy fun _ => rfl)
  | 6 => exact .inr (hwide .h fun _ => rfl)
  | 7 =>
    obtain ⟨h, e⟩ | ⟨r, e, h⟩ := lengthReg_cases word
    · exact .inl ⟨.inr (.inr (.inl ⟨rfl, h⟩)), e⟩
    · exact .inr ⟨r, e, by omega⟩
  | k + 8 =>
    rw [windowReg_of_le (by omega)]
    by_cases hmsg : k + 8 < 16
    · refine .inr ⟨_, if_pos hmsg, ?_⟩
      rw [offsetOf, BitVec.toNat_ofNat, Nat.mod_eq_of_lt (by omega)]
      omega
    by_cases hscalar : k + 8 < 32
    · refine .inr ⟨_, (if_neg hmsg).trans (if_pos hscalar), ?_⟩
      rw [offsetOf, toNat_ofNat_of_lt_eight hword, BitVec.toNat_ofNat, Nat.mod_eq_of_lt (by omega)]
      omega
    rw [if_neg hmsg, if_neg hscalar]
    obtain ⟨h, e⟩ | ⟨r, e, h⟩ :=
      pointReg_cases (row := (k + 8 - 32) % 4) (BitVec.ofNat 3 ((k + 8 - 32) / 4)) hword
    · exact .inl ⟨.inr (.inr (.inr ⟨by omega, h⟩)), e⟩
    · refine .inr ⟨r, e, ?_⟩
      rw [h, toNat_ofNat_of_lt_eight (by omega)]
      omega

/-- The offsets at which no register stands (20_memory.md R31, R33, R35): unaligned, outside the window, or reserved. -/
def isHole (off : Nat) : Prop :=
  off % 4 ≠ 0 ∨ 0x800 ≤ off ∨ (0x014 ≤ off ∧ off < 0x020) ∨ (0x02C ≤ off ∧ off < 0x040) ∨
    (0x0E8 ≤ off ∧ off < 0x100) ∨ (0x400 ≤ off ∧ 0x44 ≤ off % 0x80)

/-- A reserved place of the window is a hole. -/
theorem isHole_of_reservedAt (h : reservedAt (off / 32) (off / 4 % 8)) : isHole off := by
  unfold reservedAt at h
  unfold isHole
  omega

/-- Everything an offset can name: nothing, or the register that stands there. -/
theorem busRegister_cases (off : Nat) :
    (isHole off ∧ busRegister off = none) ∨ ∃ r, busRegister off = some r ∧ offsetOf r = off := by
  by_cases h : off % 4 = 0 ∧ off < Config.windowBytes
  · obtain ⟨haligned, hinside⟩ := h
    rw [Config.windowBytes] at hinside
    rw [busRegister_of_row (off := off) (row := off / 32) (word := off / 4 % 8) (by omega) (by omega) (by omega)]
    obtain ⟨hr, e⟩ | ⟨r, e, hr⟩ := windowReg_cases (row := off / 32) (word := off / 4 % 8) (by omega) (by omega)
    · exact .inl ⟨isHole_of_reservedAt hr, e⟩
    · exact .inr ⟨r, e, by omega⟩
  · refine .inl ⟨?_, if_neg h⟩
    rw [Config.windowBytes] at h
    unfold isHole
    omega

/-- A register stands at its own offset and nowhere else. -/
theorem busRegister_eq_some_iff : busRegister off = some r ↔ off = offsetOf r := by
  constructor
  · intro h
    obtain ⟨-, e⟩ | ⟨r', e, hr⟩ := busRegister_cases off
    · cases e.symm.trans h
    · cases e.symm.trans h; exact hr.symm
  · rintro rfl
    exact busRegister_offsetOf r

/-- No register stands in a hole. -/
theorem not_isHole_offsetOf (r : BusReg) : ¬ isHole (offsetOf r) := by
  unfold isHole
  cases r with
  | cmd | status | fcause | finfo | ctrl | ca | cb | ginf | hlenHi | hlenLo => decide
  | cp | cn | gx | gy | h | msg | scalar | pointX | pointY | pointInf => simp only [offsetOf]; omega

/-! ## The obligations -/

/-- Settles O8: each offset of the map is `offsetOf` of its register. -/
theorem busMapOffsets : Obligations.BusMapOffsets :=
  ⟨rfl, rfl, rfl, rfl, rfl, rfl, rfl, rfl,
    fun j => ⟨busRegister_offsetOf (.cp j), busRegister_offsetOf (.cn j), busRegister_offsetOf (.gx j),
      busRegister_offsetOf (.gy j), busRegister_offsetOf (.h j)⟩,
    rfl, rfl, fun k => busRegister_offsetOf (.msg k), fun i j => busRegister_offsetOf (.scalar i j),
    fun i j => ⟨busRegister_offsetOf (.pointX i j), busRegister_offsetOf (.pointY i j)⟩,
    fun i => busRegister_offsetOf (.pointInf i)⟩

/-- Settles O9: the reserved places of the map are the listed ranges, and an offset that names a register is in none of them. -/
theorem busMapHoles : Obligations.BusMapHoles := by
  intro off
  obtain ⟨hhole, e⟩ | ⟨r, e, rfl⟩ := busRegister_cases off
  · exact iff_of_true e hhole
  · exact iff_of_false (by simp [e]) (not_isHole_offsetOf r)

end Sys2Proof.Machine
end

section
/-! SUPPORT. What every word of the window reads as, and what a write that only stores a value does to each. -/

namespace Sys2Proof.Machine

open Sys2Proof.Claims

variable {s t : State} {r : BusReg} {v : Word} {off : Nat}

/-! ## The words a value is made of -/

/-- A wide value is its eight words, word 0 the most significant (20_memory.md R34). -/
theorem append_laneOf (v : Wide) :
    laneOf v 0 ++ laneOf v 1 ++ laneOf v 2 ++ laneOf v 3 ++ laneOf v 4 ++ laneOf v 5 ++ laneOf v 6 ++ laneOf v 7 = v := by
  unfold laneOf
  iterate 7 rw [BitVec.extractLsb'_append_extractLsb'_eq_extractLsb' (by rfl)]
  exact BitVec.extractLsb'_eq_self

/-- A word is its four bytes, byte 0 the most significant (20_memory.md R36). -/
theorem wordOfBytes_byteOfWord (w : Word) :
    wordOfBytes (byteOfWord w 0) (byteOfWord w 1) (byteOfWord w 2) (byteOfWord w 3) = w := by
  unfold wordOfBytes byteOfWord
  iterate 3 rw [BitVec.extractLsb'_append_extractLsb'_eq_extractLsb' (by rfl)]
  exact BitVec.extractLsb'_eq_self

/-- A 1-bit field on the bus: bit 0, the others 0 (20_memory.md R35). -/
theorem bitAt_zero (b : Bool) : bitAt b 0 = (0 : BitVec 31) ++ BitVec.ofBool b := by
  cases b <;> rfl

theorem bitAt_getLsbD (v : Word) : bitAt (v.getLsbD 0) 0 = v &&& 1 := by
  simp [bitAt, BitVec.and_one_eq_setWidth_ofBool_getLsbD]

theorem statusWord_eq (s : State) :
    statusWord s = (0 : BitVec 29) ++ BitVec.ofBool s.curveOk ++ BitVec.ofBool s.fault ++ BitVec.ofBool s.t := by
  rw [statusWord]
  cases s.t <;> cases s.fault <;> cases s.curveOk <;> rfl

/-- Byte `q` of a message word after the word is written (20_memory.md R36). -/
theorem readMsg_writeMsgWord_same (s : State) (k : BitVec 6) (w : Word) {q : Nat} (hq : q < 4) :
    readMsg (writeMsgWord s k w) (4 * k.toNat + q) = byteOfWord w q := by
  unfold writeMsgWord
  match q with
  | 0 =>
    rw [readMsg_writeMsg_other _ _ _ _ (by omega), readMsg_writeMsg_other _ _ _ _ (by omega),
      readMsg_writeMsg_other _ _ _ _ (by omega)]
    exact readMsg_writeMsg_same _ _ _
  | 1 => rw [readMsg_writeMsg_other _ _ _ _ (by omega), readMsg_writeMsg_other _ _ _ _ (by omega), readMsg_writeMsg_same]
  | 2 => rw [readMsg_writeMsg_other _ _ _ _ (by omega), readMsg_writeMsg_same]
  | 3 => rw [readMsg_writeMsg_same]

theorem readMsgWord_writeMsgWord_same (s : State) (k : BitVec 6) (w : Word) : readMsgWord (writeMsgWord s k w) k = w := by
  have h0 : readMsg (writeMsgWord s k w) (4 * k.toNat) = byteOfWord w 0 := readMsg_writeMsgWord_same s k w (q := 0) (by omega)
  rw [readMsgWord, h0, readMsg_writeMsgWord_same _ _ _ (by omega), readMsg_writeMsgWord_same _ _ _ (by omega),
    readMsg_writeMsgWord_same _ _ _ (by omega), wordOfBytes_byteOfWord]

theorem readMsgWord_writeMsgWord_other (s : State) {k k' : BitVec 6} (w : Word) (h : k' ≠ k) :
    readMsgWord (writeMsgWord s k w) k' = readMsgWord s k' := by
  have hne : k'.toNat ≠ k.toNat := fun e => h (BitVec.eq_of_toNat_eq e)
  have hbyte : ∀ q, q < 4 → readMsg (writeMsgWord s k w) (4 * k'.toNat + q) = readMsg s (4 * k'.toNat + q) := fun q hq =>
    readMsg_writeMsgWord_other s k w _ (by omega)
  have h0 : readMsg (writeMsgWord s k w) (4 * k'.toNat) = readMsg s (4 * k'.toNat) := hbyte 0 (by omega)
  rw [readMsgWord, readMsgWord, h0, hbyte 1 (by omega), hbyte 2 (by omega), hbyte 3 (by omega)]

/-- A write of a message word changes `MSG` alone. -/
theorem writeMsgWord_eq (s : State) (k : BitVec 6) (w : Word) : ∃ m, writeMsgWord s k w = { s with msg := m } := ⟨_, rfl⟩

/-- What a word of the window reads as (20_memory.md R33 to R36). -/
theorem readRegister_eq_registerContent (s : State) (r : BusReg) : readRegister s r = registerContent s r := by
  cases r with
  | status => exact statusWord_eq s
  | fcause => exact BitVec.setWidth_eq_append (by decide : 8 ≤ 32)
  | ginf | pointInf => exact bitAt_zero _
  | hlenHi => exact congrArg (BitVec.ofNat 32) (Nat.shiftRight_eq_div_pow _ 32)
  | _ => rfl

/-- The host's list and the answers to it are not in the window. -/
theorem readRegister_queue (s : State) (es : List HostEvent) (rs : List BusReply) (r : BusReg) :
    readRegister { s with pending := es, replies := rs } r = readRegister s r := by
  cases r <;> rfl

theorem busRead_queue (s : State) (es : List HostEvent) (rs : List BusReply) (off : Nat) :
    busRead { s with pending := es, replies := rs } off = busRead s off := by
  unfold busRead
  cases busRegister off with
  | none => rfl
  | some r => exact congrArg BusReply.data (readRegister_queue s es rs r)

/-- A read takes the next event off the host's list and answers it; nothing else changes (20_memory.md R32). -/
theorem step_read {rest : List HostEvent} (hw : s.waiting = false) (hp : s.pending = .read off :: rest) :
    step s = .next { s with pending := rest, replies := busRead s off :: s.replies } := by
  rw [step_event hw hp, ← busRead_queue s rest s.replies]
  rfl

/-! ## Writes that only store a value -/

/-- Of a register that is no 1-bit field the whole word is kept. -/
theorem stored_word (hg : r ≠ .ginf) (hp : ∀ i, r ≠ .pointInf i) (hread : readRegister t r = v)
    (hother : ∀ r', r' ≠ r → readRegister t r' = readRegister s r') : stored s t r v := by
  refine ⟨?_, hother⟩
  rw [hread, if_neg]
  rintro (h | ⟨i, h⟩)
  · exact hg h
  · exact hp i h

/-- Of a 1-bit field only bit 0 of the word is kept. -/
theorem stored_bit (hr : r = .ginf ∨ ∃ i, r = .pointInf i) (hread : readRegister t r = bitAt (v.getLsbD 0) 0)
    (hother : ∀ r', r' ≠ r → readRegister t r' = readRegister s r') : stored s t r v :=
  ⟨by rw [hread, if_pos hr, bitAt_getLsbD], hother⟩

theorem writeParams_eq_some {p : Params} (h : writeParams s p = some t) : t = { s with params := p } := by
  cases hc : s.curveOk with
  | true => simp [writeParams, hc] at h
  | false => simpa [writeParams, hc] using h.symm

/-- A write of a scalar register changes no word of the window but those of it that differ. -/
theorem readRegister_writeScalar {i : SReg} {w : Wide} (hw : ∀ j, .scalar i j ≠ r → laneOf w j = laneOf (readScalar s i) j)
    (r' : BusReg) (hr : r' ≠ r) : readRegister (writeScalar s i w) r' = readRegister s r' := by
  cases r' with
  | scalar i' j =>
    by_cases hi : i' = i
    · subst hi
      exact (congrArg (laneOf · j) (readScalar_writeScalar_same s i' w)).trans (hw j hr)
    · exact congrArg (laneOf · j) (readScalar_writeScalar_other s i i' w hi)
  | _ => rfl

/-- A write of a point register changes no word of the window but those of it that differ. -/
theorem readRegister_writePointReg {i : PReg} {p : PointReg}
    (hx : ∀ j, .pointX i j ≠ r → laneOf p.x j = laneOf (readPointReg s i).x j)
    (hy : ∀ j, .pointY i j ≠ r → laneOf p.y j = laneOf (readPointReg s i).y j)
    (hinf : .pointInf i ≠ r → p.inf = (readPointReg s i).inf)
    (r' : BusReg) (hr : r' ≠ r) : readRegister (writePointReg s i p) r' = readRegister s r' := by
  have hsame : readPointReg (writePointReg s i p) i = p := readPointReg_writePointReg_same s i p
  have hother : ∀ i', i' ≠ i → readPointReg (writePointReg s i p) i' = readPointReg s i' := fun i' =>
    readPointReg_writePointReg_other s i i' p
  cases r' with
  | pointX i' j =>
    by_cases hi : i' = i
    · subst hi; rw [readRegister, hsame, hx j hr, readRegister]
    · rw [readRegister, hother i' hi, readRegister]
  | pointY i' j =>
    by_cases hi : i' = i
    · subst hi; rw [readRegister, hsame, hy j hr, readRegister]
    · rw [readRegister, hother i' hi, readRegister]
  | pointInf i' =>
    by_cases hi : i' = i
    · subst hi; rw [readRegister, hsame, hinf hr, readRegister]
    · rw [readRegister, hother i' hi, readRegister]
  | _ => rfl

/-- A write that only stores a value stores it in its own word of the window and in no other. -/
theorem stored_of_storeRegister (h : storeRegister s r v = some t) : stored s t r v := by
  have hlane : ∀ (w : Wide) (j j' : BitVec 3), j' ≠ j → laneOf (withLane w j v) j' = laneOf w j' := fun w j j' =>
    laneOf_withLane_other w j j' v
  cases r with
  | ca =>
    obtain rfl := writeParams_eq_some h
    refine stored_word nofun nofun rfl fun r' hr => ?_
    cases r' with
    | ca => exact absurd rfl hr
    | _ => rfl
  | cb =>
    obtain rfl := writeParams_eq_some h
    refine stored_word nofun nofun rfl fun r' hr => ?_
    cases r' with
    | cb => exact absurd rfl hr
    | _ => rfl
  | ginf =>
    obtain rfl := writeParams_eq_some h
    refine stored_bit (.inl rfl) rfl fun r' hr => ?_
    cases r' with
    | ginf => exact absurd rfl hr
    | _ => rfl
  | cp j =>
    obtain rfl := writeParams_eq_some h
    refine stored_word nofun nofun (laneOf_withLane_same _ _ _) fun r' hr => ?_
    cases r' with
    | cp j' => exact hlane _ _ _ fun e => hr (congrArg _ e)
    | _ => rfl
  | cn j =>
    obtain rfl := writeParams_eq_some h
    refine stored_word nofun nofun (laneOf_withLane_same _ _ _) fun r' hr => ?_
    cases r' with
    | cn j' => exact hlane _ _ _ fun e => hr (congrArg _ e)
    | _ => rfl
  | gx j =>
    obtain rfl := writeParams_eq_some h
    refine stored_word nofun nofun (laneOf_withLane_same _ _ _) fun r' hr => ?_
    cases r' with
    | gx j' => exact hlane _ _ _ fun e => hr (congrArg _ e)
    | _ => rfl
  | gy j =>
    obtain rfl := writeParams_eq_some h
    refine stored_word nofun nofun (laneOf_withLane_same _ _ _) fun r' hr => ?_
    cases r' with
    | gy j' => exact hlane _ _ _ fun e => hr (congrArg _ e)
    | _ => rfl
  | msg k =>
    obtain rfl := Option.some.inj h
    obtain ⟨m, hm⟩ := writeMsgWord_eq s k v
    refine stored_word nofun nofun (readMsgWord_writeMsgWord_same s k v) fun r' hr => ?_
    cases r' with
    | msg k' => exact readMsgWord_writeMsgWord_other s v fun e => hr (congrArg _ e)
    | _ => rw [hm]; rfl
  | scalar i j =>
    obtain rfl := Option.some.inj h
    refine stored_word nofun nofun ?_ (readRegister_writeScalar fun j' hj => hlane _ _ _ fun e => hj (congrArg _ e))
    rw [readRegister, readScalar_writeScalar_same, laneOf_withLane_same]
  | pointX i j =>
    obtain rfl := Option.some.inj h
    refine stored_word nofun nofun ?_ (readRegister_writePointReg (fun j' hj => hlane _ _ _ fun e => hj (congrArg _ e))
      (fun _ _ => rfl) fun _ => rfl)
    rw [readRegister, readPointReg_writePointReg_same, laneOf_withLane_same]
  | pointY i j =>
    obtain rfl := Option.some.inj h
    refine stored_word nofun nofun ?_ (readRegister_writePointReg (fun _ _ => rfl)
      (fun j' hj => hlane _ _ _ fun e => hj (congrArg _ e)) fun _ => rfl)
    rw [readRegister, readPointReg_writePointReg_same, laneOf_withLane_same]
  | pointInf i =>
    obtain rfl := Option.some.inj h
    refine stored_bit (.inr ⟨i, rfl⟩) ?_ (readRegister_writePointReg (fun _ _ => rfl) (fun _ _ => rfl) fun hi => absurd rfl hi)
    rw [readRegister, readPointReg_writePointReg_same]
  | cmd | status | fcause | finfo | ctrl | h | hlenHi | hlenLo => cases h

/-- A word is stored whatever the host's list and the answers to it. -/
theorem stored_queue {es : List HostEvent} {b : BusReply} (h : stored { s with pending := es } t r v) :
    stored s (reply b t) r v := by
  obtain ⟨hread, hother⟩ := h
  exact ⟨(readRegister_queue t t.pending _ r).trans hread, fun r' hr =>
    ((readRegister_queue t t.pending _ r').trans (hother r' hr)).trans (readRegister_queue s es s.replies r')⟩

/-- What a write that only stores a value leaves alone beside the window (20_memory.md R32). -/
theorem storeRegister_frame (h : storeRegister s r v = some t) :
    t.pending = s.pending ∧ t.replies = s.replies ∧ t.waiting = s.waiting ∧ t.digest = s.digest ∧ t.port = s.port ∧
      t.epoch = s.epoch := by
  obtain ⟨-, p, rfl⟩ | ⟨k, rfl⟩ | ⟨i, w, rfl⟩ | ⟨i, p, rfl⟩ := storeRegister_cases h <;> simp

theorem storeRegister_of_writable (h : writable s r) (v : Word) : ∃ t, storeRegister s r v = some t := by
  have hparams : s.curveOk = false → ∀ p, ∃ t, writeParams s p = some t := fun hc p => ⟨_, by simp [writeParams, hc]; rfl⟩
  cases r with
  | ca | cb | ginf | cp | cn | gx | gy => exact hparams h _
  | msg | scalar | pointX | pointY | pointInf => exact ⟨_, rfl⟩
  | cmd | status | fcause | finfo | ctrl | h | hlenHi | hlenLo => exact h.elim

/-! ## Writes on the bus -/

/-- A write to any register but `CTRL` (20_memory.md R44). -/
theorem busWrite_register (hr : busRegister off = some r) (hctrl : r ≠ .ctrl) : busWrite off v s = writeRegister r v s := by
  rw [busWrite, hr]
  cases r with
  | ctrl => exact absurd rfl hctrl
  | _ => rfl

theorem writeRegister_faulted (hf : s.fault = true) : writeRegister r v s = .next (reply .busError s) := by
  unfold writeRegister
  exact if_pos hf

theorem writeRegister_stored (hf : s.fault = false) (h : storeRegister s r v = some t) :
    writeRegister r v s = .next (reply .done t) := by
  unfold writeRegister
  rw [if_neg (ne_true_of_eq_false hf)]
  cases r with
  | cmd => cases h
  | _ => exact congrArg (storeAnswer s) h

theorem resetFrom_resetBlock (s : State) (es : List HostEvent) (rs : List BusReply) :
    resetFrom s { resetBlock s with pending := es, replies := rs } :=
  ⟨resetImage_resetBlock s es rs, rfl, fun _ => rfl⟩

/-! ## The obligations -/

/-- Settles O11: the store is taken on the bus, and it changes its own word of the window alone. -/
theorem storedWordReadsBack : Obligations.StoredWordReadsBack := by
  refine ⟨fun s t r v => stored_of_storeRegister, fun s off v r rest hp hw hf hr hwrite => ?_⟩
  obtain ⟨t, ht⟩ := storeRegister_of_writable (s := { s with pending := rest }) (r := r) hwrite v
  obtain ⟨hpending, hreplies, hwaiting, hdigest, hport, hepoch⟩ := storeRegister_frame ht
  have hctrl : r ≠ .ctrl := by
    rintro rfl
    exact hwrite
  refine ⟨reply .done t, ?_, stored_queue (stored_of_storeRegister ht), hpending, congrArg (BusReply.done :: ·) hreplies,
    hwaiting.trans hw, hdigest, hport, hepoch⟩
  rw [step_event hw hp]
  exact (busWrite_register hr hctrl).trans (writeRegister_stored hf ht)

/-- Settles O7: a read answers from the map, and the state it answers from is the one it leaves. -/
theorem busReadHasNoSideEffect : Obligations.BusReadHasNoSideEffect := by
  refine ⟨readRegister_eq_registerContent, fun s off rest hp hw =>
    ⟨busRead s off, step_read hw hp, fun reg hreg => ?_, fun hnone => ?_⟩⟩
  · simp only [busRead, hreg, readRegister_eq_registerContent]
  · rw [busRead, hnone]

/-- Settles O12: the words tile the value, and `withLane` writes one of them. -/
theorem wideRegisterWords : Obligations.WideRegisterWords :=
  ⟨fun v => (append_laneOf v).symm,
    fun v j w => ⟨laneOf_withLane_same v j w, fun j' => laneOf_withLane_other v j j' w⟩, fun _ _ => rfl⟩

/-- Settles O13: the four bytes of the word are written one by one, and each is read back. -/
theorem messageWordPacking : Obligations.MessageWordPacking := by
  refine ⟨fun s k => rfl, fun s k v => ⟨writeMsgWord s k v, rfl, ?_⟩⟩
  have hbyte : ∀ q, q < 4 → readMsg (writeMsgWord s k v) (4 * k.toNat + q) = byteOfWord v q := fun q =>
    readMsg_writeMsgWord_same s k v
  exact ⟨hbyte 0 (by omega), hbyte 1 (by omega), hbyte 2 (by omega), hbyte 3 (by omega), readMsg_writeMsgWord_other s k v⟩

/-- Settles O14: reads do not look at `FAULT`, `CTRL` stands at its offset alone, and every other write is refused. -/
theorem faultStateIsFrozen : Obligations.FaultStateIsFrozen := by
  intro s rest hf hw
  refine ⟨fun off hp => step_read hw hp, fun off v hp hoff => ?_, fun v hp hv => ?_, fun v hp hv => ?_⟩
  · rw [step_event hw hp]
    cases hr : busRegister off with
    | none => exact busWrite_hole hr
    | some r =>
      have hctrl : r ≠ .ctrl := by
        rintro rfl
        exact hoff (busRegister_eq_some_iff.mp hr)
      exact (busWrite_register hr hctrl).trans (writeRegister_faulted hf)
  · refine ⟨reply .done (resetBlock { s with pending := rest }), ?_, resetFrom_resetBlock s rest _, rfl, rfl⟩
    rw [step_event hw hp, hostEvent, busWrite_ctrl, writeCtrl, if_pos hv]
  · rw [step_event hw hp, hostEvent, busWrite_ctrl, writeCtrl, if_neg (ne_true_of_eq_false hv)]
    rfl

end Sys2Proof.Machine
end

section
/-! SUPPORT. The decoder by the operand form of the word: when each form answers which command (30_encoding.md R52 to R55). -/

namespace Sys2Proof

variable {w : Word} {i : Instr}

/-! ## When a form answers a command -/

theorem illegal_if_eq_command {p : Prop} [Decidable p] {why : IllegalWord} {d : Decoded} :
    (if p then Decoded.illegal why else d) = .command i ↔ ¬ p ∧ d = .command i := by
  by_cases h : p <;> simp [h]

theorem if_illegal_eq_command {p : Prop} [Decidable p] {why : IllegalWord} {d : Decoded} :
    (if p then d else Decoded.illegal why) = .command i ↔ p ∧ d = .command i := by
  by_cases h : p <;> simp [h]

theorem decodeField3_eq_command {mk : SReg → SReg → SReg → ModSel → Instr} :
    decodeField3 mk w = .command i ↔ aboveMsel w = 0 ∧ mk (fieldA w) (fieldB w) (fieldC w) (mselOf w) = i := by
  simp [decodeField3, if_illegal_eq_command]

theorem decodeField2_eq_command {mk : SReg → SReg → ModSel → Instr} :
    decodeField2 mk w = .command i ↔ (aboveMsel w = 0 ∧ fieldC w = 0) ∧ mk (fieldA w) (fieldB w) (mselOf w) = i := by
  simp [decodeField2, if_illegal_eq_command]

theorem decodeNone_eq_command {j : Instr} :
    decodeNone j w = .command i ↔ (fieldA w = 0 ∧ fieldB w = 0 ∧ fieldC w = 0 ∧ imm12Of w = 0) ∧ j = i := by
  simp [decodeNone, if_illegal_eq_command]

theorem decodePchk_eq_command :
    decodePchk w = .command i ↔
      (fieldA w = 0 ∧ fieldC w = 0 ∧ imm12Of w = 0) ∧ notPoint (fieldB w) = false ∧ .pchk (pointOf (fieldB w)) = i := by
  simp [decodePchk, illegal_if_eq_command]

theorem decodePrec_eq_command :
    decodePrec w = .command i ↔
      (fieldC w = 0 ∧ imm12Of w = 0) ∧ notPoint (fieldA w) = false ∧ .prec (pointOf (fieldA w)) (fieldB w) = i := by
  simp [decodePrec, illegal_if_eq_command]

theorem decodePadd_eq_command :
    decodePadd w = .command i ↔
      imm12Of w = 0 ∧ (notPoint (fieldA w) = false ∧ notPoint (fieldB w) = false ∧ notPoint (fieldC w) = false) ∧
        .padd (pointOf (fieldA w)) (pointOf (fieldB w)) (pointOf (fieldC w)) = i := by
  simp [decodePadd, illegal_if_eq_command, if_illegal_eq_command, and_assoc]

theorem decodePdbl_eq_command :
    decodePdbl w = .command i ↔
      (fieldC w = 0 ∧ imm12Of w = 0) ∧ (notPoint (fieldA w) = false ∧ notPoint (fieldB w) = false) ∧
        .pdbl (pointOf (fieldA w)) (pointOf (fieldB w)) = i := by
  simp [decodePdbl, illegal_if_eq_command]

theorem decodeSmul_eq_command :
    decodeSmul w = .command i ↔
      imm12Of w = 0 ∧ (notPoint (fieldA w) = false ∧ notPoint (fieldB w) = false) ∧
        .smul (pointOf (fieldA w)) (pointOf (fieldB w)) (fieldC w) = i := by
  simp [decodeSmul, illegal_if_eq_command, if_illegal_eq_command]

theorem decodeKeygen_eq_command :
    decodeKeygen w = .command i ↔
      (fieldC w = 0 ∧ imm12Of w = 0) ∧ notPoint (fieldB w) = false ∧ .keygen (fieldA w) (pointOf (fieldB w)) = i := by
  simp [decodeKeygen, illegal_if_eq_command]

theorem decodeHappend_eq_command :
    decodeHappend w = .command i ↔
      (fieldA w = 0 ∧ fieldB w = 0 ∧ fieldC w = 0) ∧ (imm12Of w).toNat ≤ Config.msgBytes ∧ .happend (imm12Of w) = i := by
  simp [decodeHappend, illegal_if_eq_command]

theorem decodeHdigest_eq_command :
    decodeHdigest w = .command i ↔ (fieldB w = 0 ∧ fieldC w = 0 ∧ imm12Of w = 0) ∧ .hdigest (fieldA w) = i := by
  simp [decodeHdigest, illegal_if_eq_command]

theorem decodeSign_eq_command :
    decodeSign w = .command i ↔
      imm12Of w = 0 ∧ fieldA w ≠ fieldB w ∧ .sign (fieldA w) (fieldB w) (fieldC w) = i := by
  simp [decodeSign, illegal_if_eq_command, if_illegal_eq_command]

theorem decodeVerify_eq_command :
    decodeVerify w = .command i ↔
      imm12Of w = 0 ∧ notPoint (fieldC w) = false ∧ .verify (fieldA w) (fieldB w) (pointOf (fieldC w)) = i := by
  simp [decodeVerify, illegal_if_eq_command, if_illegal_eq_command]

/-! ## From the command to its word and back -/

/-- A legal command is what its word decodes to, whatever the operands. -/
theorem decode_encode (h : i.wellFormed = true) : decode (encode i) = .command i := by
  cases i with
  | modadd | modsub | modmul | montmul | modexp => simp [encode, decode, decodeField3_eq_command]
  | modinv | sqrt => simp [encode, decode, decodeField2_eq_command]
  | cinit | hreset => simp [encode, decode, decodeNone_eq_command]
  | pchk => simp [encode, decode, decodePchk_eq_command]
  | prec => simp [encode, decode, decodePrec_eq_command]
  | padd => simp [encode, decode, decodePadd_eq_command]
  | pdbl => simp [encode, decode, decodePdbl_eq_command]
  | smul => simp [encode, decode, decodeSmul_eq_command]
  | keygen => simp [encode, decode, decodeKeygen_eq_command]
  | happend => simpa [encode, decode, decodeHappend_eq_command] using of_decide_eq_true h
  | hdigest => simp [encode, decode, decodeHdigest_eq_command]
  | sign => simpa [encode, decode, decodeSign_eq_command] using of_decide_eq_true h
  | verify => simp [encode, decode, decodeVerify_eq_command]

theorem mkWord_eq_of_fields {n : Nat} {a b c : BitVec 4} {m : BitVec 12} (ho : (opcodeOf w).toNat = n)
    (ha : fieldA w = a) (hb : fieldB w = b) (hc : fieldC w = c) (hm : imm12Of w = m) :
    mkWord (BitVec.ofNat 8 n) a b c m = w := by
  rw [← ho, BitVec.ofNat_toNat, BitVec.setWidth_eq, ← ha, ← hb, ← hc, ← hm, mkWord_fields]

/-- `imm12` is `msel` alone where the bits above it are 0 (30_encoding.md R53). -/
theorem imm12Of_of_aboveMsel (h : aboveMsel w = 0) : imm12Of w = mselBits (mselOf w) := by
  have hbits : ∀ k < 11, w.getLsbD (1 + k) = false := fun k hk => by
    simpa [aboveMsel, hk] using congrArg (·.getLsbD k) h
  have hzero : ∀ k s, (mselBits s).getLsbD (k + 1) = false := fun k s => by
    cases s <;> simp [mselBits]
  apply BitVec.eq_of_getLsbD_eq
  intro k hk
  cases k with
  | zero =>
    unfold mselOf
    split
    next h0 => simpa [imm12Of, mselBits] using h0
    next h0 => simpa [imm12Of, mselBits] using h0
  | succ k =>
    rw [hzero, imm12Of, BitVec.getLsbD_extractLsb', Nat.zero_add, Nat.add_comm k, hbits k (by omega), Bool.and_false]

theorem encode_of_decodeField3 {n : Nat} {mk : SReg → SReg → SReg → ModSel → Instr}
    (henc : ∀ a b c s, encode (mk a b c s) = mkWord (BitVec.ofNat 8 n) a b c (mselBits s))
    (hwf : ∀ a b c s, (mk a b c s).wellFormed = true)
    (ho : (opcodeOf w).toNat = n) (h : decodeField3 mk w = .command i) : encode i = w ∧ i.wellFormed = true := by
  obtain ⟨hm, rfl⟩ := decodeField3_eq_command.mp h
  exact ⟨(henc _ _ _ _).trans (mkWord_eq_of_fields ho rfl rfl rfl (imm12Of_of_aboveMsel hm)), hwf _ _ _ _⟩

theorem encode_of_decodeField2 {n : Nat} {mk : SReg → SReg → ModSel → Instr}
    (henc : ∀ a b s, encode (mk a b s) = mkWord (BitVec.ofNat 8 n) a b 0 (mselBits s))
    (hwf : ∀ a b s, (mk a b s).wellFormed = true)
    (ho : (opcodeOf w).toNat = n) (h : decodeField2 mk w = .command i) : encode i = w ∧ i.wellFormed = true := by
  obtain ⟨⟨hm, hc⟩, rfl⟩ := decodeField2_eq_command.mp h
  exact ⟨(henc _ _ _).trans (mkWord_eq_of_fields ho rfl rfl hc (imm12Of_of_aboveMsel hm)), hwf _ _ _⟩

theorem encode_of_decodeNone {n : Nat} {j : Instr} (henc : encode j = mkWord (BitVec.ofNat 8 n) 0 0 0 0)
    (hwf : j.wellFormed = true)
    (ho : (opcodeOf w).toNat = n) (h : decodeNone j w = .command i) : encode i = w ∧ i.wellFormed = true := by
  obtain ⟨⟨ha, hb, hc, hm⟩, rfl⟩ := decodeNone_eq_command.mp h
  exact ⟨henc.trans (mkWord_eq_of_fields ho ha hb hc hm), hwf⟩

/-- The field of a point register is the one its number is written in. -/
theorem eq_pointBits {f : BitVec 4} (h : notPoint f = false) : f = pointBits (pointOf f) := (pointBits_pointOf f h).symm

/-- A word that decodes is the word of the command it decodes to, and that command is legal. -/
theorem encode_of_decode (h : decode w = .command i) : encode i = w ∧ i.wellFormed = true := by
  unfold decode at h
  split at h
  case h_1 ho | h_2 ho | h_3 ho | h_4 ho | h_5 ho =>
    exact encode_of_decodeField3 (fun _ _ _ _ => rfl) (fun _ _ _ _ => rfl) ho h
  case h_6 ho | h_7 ho => exact encode_of_decodeField2 (fun _ _ _ => rfl) (fun _ _ _ => rfl) ho h
  next ho => exact encode_of_decodeNone rfl rfl ho h
  next ho =>
    obtain ⟨⟨ha, hc, hm⟩, hb, rfl⟩ := decodePchk_eq_command.mp h
    exact ⟨mkWord_eq_of_fields ho ha (eq_pointBits hb) hc hm, rfl⟩
  next ho =>
    obtain ⟨⟨hc, hm⟩, ha, rfl⟩ := decodePrec_eq_command.mp h
    exact ⟨mkWord_eq_of_fields ho (eq_pointBits ha) rfl hc hm, rfl⟩
  next ho =>
    obtain ⟨hm, ⟨ha, hb, hc⟩, rfl⟩ := decodePadd_eq_command.mp h
    exact ⟨mkWord_eq_of_fields ho (eq_pointBits ha) (eq_pointBits hb) (eq_pointBits hc) hm, rfl⟩
  next ho =>
    obtain ⟨⟨hc, hm⟩, ⟨ha, hb⟩, rfl⟩ := decodePdbl_eq_command.mp h
    exact ⟨mkWord_eq_of_fields ho (eq_pointBits ha) (eq_pointBits hb) hc hm, rfl⟩
  next ho =>
    obtain ⟨hm, ⟨ha, hb⟩, rfl⟩ := decodeSmul_eq_command.mp h
    exact ⟨mkWord_eq_of_fields ho (eq_pointBits ha) (eq_pointBits hb) rfl hm, rfl⟩
  next ho =>
    obtain ⟨⟨hc, hm⟩, hb, rfl⟩ := decodeKeygen_eq_command.mp h
    exact ⟨mkWord_eq_of_fields ho rfl (eq_pointBits hb) hc hm, rfl⟩
  next ho => exact encode_of_decodeNone rfl rfl ho h
  next ho =>
    obtain ⟨⟨ha, hb, hc⟩, hlen, rfl⟩ := decodeHappend_eq_command.mp h
    exact ⟨mkWord_eq_of_fields ho ha hb hc rfl, decide_eq_true hlen⟩
  next ho =>
    obtain ⟨⟨hb, hc, hm⟩, rfl⟩ := decodeHdigest_eq_command.mp h
    exact ⟨mkWord_eq_of_fields ho rfl hb hc hm, rfl⟩
  next ho =>
    obtain ⟨hm, hne, rfl⟩ := decodeSign_eq_command.mp h
    exact ⟨mkWord_eq_of_fields ho rfl rfl rfl hm, decide_eq_true hne⟩
  next ho =>
    obtain ⟨hm, hc, rfl⟩ := decodeVerify_eq_command.mp h
    exact ⟨mkWord_eq_of_fields ho rfl rfl (eq_pointBits hc) hm, rfl⟩
  next => cases h

/-- Settles O1: the fields of the word are the operands, and they pass the checks of the command's form. -/
theorem decodeOfEncode : Obligations.DecodeOfEncode := fun _ => decode_encode

/-- Settles O2: a word is put together from its own fields, and a form that answers a command has read them all. -/
theorem encodeOfDecode : Obligations.EncodeOfDecode := fun _ _ => encode_of_decode

end Sys2Proof
end

section
/-! SUPPORT. The opcode table: a row selects the words of its own commands and no other (30_encoding.md R54). -/

namespace Sys2Proof

variable {w : Word} {i : Instr}

/-! ## The row of a command selects its word -/

theorem encode_and_mask (i : Instr) : encode i &&& (rowOf i).mask = (rowOf i).pattern := by
  cases i with
  | modadd rd rs1 rs2 m => exact Laws.RowMatch.modadd rd rs1 rs2 m
  | modsub rd rs1 rs2 m => exact Laws.RowMatch.modsub rd rs1 rs2 m
  | modmul rd rs1 rs2 m => exact Laws.RowMatch.modmul rd rs1 rs2 m
  | montmul rd rs1 rs2 m => exact Laws.RowMatch.montmul rd rs1 rs2 m
  | modexp rd rs1 rs2 m => exact Laws.RowMatch.modexp rd rs1 rs2 m
  | modinv rd rs1 m => exact Laws.RowMatch.modinv rd rs1 m
  | sqrt rd rs1 m => exact Laws.RowMatch.sqrt rd rs1 m
  | cinit => exact Laws.RowMatch.cinit
  | pchk ps1 => exact Laws.RowMatch.pchk ps1
  | prec pd rs1 => exact Laws.RowMatch.prec pd rs1
  | padd pd ps1 ps2 => exact Laws.RowMatch.padd pd ps1 ps2
  | pdbl pd ps1 => exact Laws.RowMatch.pdbl pd ps1
  | smul pd ps1 rs2 => exact Laws.RowMatch.smul pd ps1 rs2
  | keygen rd pd => exact Laws.RowMatch.keygen rd pd
  | hreset => exact Laws.RowMatch.hreset
  | happend len => exact Laws.RowMatch.happend len
  | hdigest rd => exact Laws.RowMatch.hdigest rd
  | sign rdR rdS rsD => exact Laws.RowMatch.sign rdR rdS rsD
  | verify rsR rsS psQ => exact Laws.RowMatch.verify rsR rsS psQ

/-- The constraint of a command's row, on its word, is that the command is legal. -/
theorem rowConstraint_encode (i : Instr) : rowConstraint (rowOf i) (encode i) = i.wellFormed := by
  cases i with
  | happend | sign => simp [rowConstraint, rowOf, encode, Instr.wellFormed]
  | _ => rfl

theorem rowOf_mem (i : Instr) : rowOf i ∈ opcodeTable := by
  cases i <;> simp [rowOf, opcodeTable]

theorem rowSelects_encode (h : i.wellFormed = true) : rowSelects (rowOf i) (encode i) = true := by
  rw [rowSelects, encode_and_mask, rowConstraint_encode, h]
  simp

/-! ## A selected word is the word of a command of the row -/

/-- Where the mask covers a field, the field of a selected word is that of the match. -/
theorem eq_of_and_allOnes {n : Nat} {x m p : BitVec n} (h : x &&& m = p) (hm : m = BitVec.allOnes n) : x = p := by
  rwa [hm, BitVec.and_allOnes] at h

/-- Where the mask covers bit 3 of a field and the match has it 0, the field names a point register. -/
theorem notPoint_of_and {f m p : BitVec 4} (h : f &&& m = p) (hm : m = 8) (hp : p = 0) : notPoint f = false := by
  subst hm hp
  revert f
  decide

/-- A match under a mask, field by field. -/
theorem fields_of_and {m p : Word} (h : w &&& m = p) :
    opcodeOf w &&& opcodeOf m = opcodeOf p ∧ fieldA w &&& fieldA m = fieldA p ∧ fieldB w &&& fieldB m = fieldB p ∧
    fieldC w &&& fieldC m = fieldC p ∧ imm12Of w &&& imm12Of m = imm12Of p ∧ aboveMsel w &&& aboveMsel m = aboveMsel p := by
  subst h
  simp only [opcodeOf, fieldA, fieldB, fieldC, imm12Of, aboveMsel, BitVec.extractLsb'_and, and_self]

/-- Every row fixes the whole opcode. -/
theorem opcodeOf_mask : ∀ r ∈ opcodeTable, opcodeOf r.mask = BitVec.allOnes 8 := by decide

/-- A word that a row selects decodes, to a command of that row. -/
theorem decode_of_rowSelects {r : TableRow} (hr : r ∈ opcodeTable) (h : rowSelects r w = true) :
    ∃ i, decode w = .command i ∧ rowOf i = r := by
  obtain ⟨hmatch, hconstraint⟩ := Bool.and_eq_true_iff.mp h
  obtain ⟨ho, ha, hb, hc, hm, hs⟩ := fields_of_and (of_decide_eq_true hmatch)
  replace ho := congrArg BitVec.toNat (eq_of_and_allOnes ho (opcodeOf_mask r hr))
  unfold decode
  rw [ho]
  simp only [opcodeTable, List.cons_append, List.nil_append, List.mem_cons, List.not_mem_nil, or_false] at hr
  obtain rfl | rfl | rfl | rfl | rfl | rfl | rfl | rfl | rfl | rfl | rfl | rfl | rfl | rfl | rfl | rfl | rfl | rfl |
    rfl := hr
  iterate 5 exact ⟨_, decodeField3_eq_command.mpr ⟨eq_of_and_allOnes hs rfl, rfl⟩, rfl⟩
  iterate 2 exact ⟨_, decodeField2_eq_command.mpr ⟨⟨eq_of_and_allOnes hs rfl, eq_of_and_allOnes hc rfl⟩, rfl⟩, rfl⟩
  · exact ⟨_, decodeNone_eq_command.mpr ⟨⟨eq_of_and_allOnes ha rfl, eq_of_and_allOnes hb rfl, eq_of_and_allOnes hc rfl,
      eq_of_and_allOnes hm rfl⟩, rfl⟩, rfl⟩
  · exact ⟨_, decodePchk_eq_command.mpr ⟨⟨eq_of_and_allOnes ha rfl, eq_of_and_allOnes hc rfl, eq_of_and_allOnes hm rfl⟩,
      notPoint_of_and hb rfl rfl, rfl⟩, rfl⟩
  · exact ⟨_, decodePrec_eq_command.mpr ⟨⟨eq_of_and_allOnes hc rfl, eq_of_and_allOnes hm rfl⟩,
      notPoint_of_and ha rfl rfl, rfl⟩, rfl⟩
  · exact ⟨_, decodePadd_eq_command.mpr ⟨eq_of_and_allOnes hm rfl,
      ⟨notPoint_of_and ha rfl rfl, notPoint_of_and hb rfl rfl, notPoint_of_and hc rfl rfl⟩, rfl⟩, rfl⟩
  · exact ⟨_, decodePdbl_eq_command.mpr ⟨⟨eq_of_and_allOnes hc rfl, eq_of_and_allOnes hm rfl⟩,
      ⟨notPoint_of_and ha rfl rfl, notPoint_of_and hb rfl rfl⟩, rfl⟩, rfl⟩
  · exact ⟨_, decodeSmul_eq_command.mpr ⟨eq_of_and_allOnes hm rfl,
      ⟨notPoint_of_and ha rfl rfl, notPoint_of_and hb rfl rfl⟩, rfl⟩, rfl⟩
  · exact ⟨_, decodeKeygen_eq_command.mpr ⟨⟨eq_of_and_allOnes hc rfl, eq_of_and_allOnes hm rfl⟩,
      notPoint_of_and hb rfl rfl, rfl⟩, rfl⟩
  · exact ⟨_, decodeNone_eq_command.mpr ⟨⟨eq_of_and_allOnes ha rfl, eq_of_and_allOnes hb rfl, eq_of_and_allOnes hc rfl,
      eq_of_and_allOnes hm rfl⟩, rfl⟩, rfl⟩
  · exact ⟨_, decodeHappend_eq_command.mpr ⟨⟨eq_of_and_allOnes ha rfl, eq_of_and_allOnes hb rfl, eq_of_and_allOnes hc rfl⟩,
      of_decide_eq_true hconstraint, rfl⟩, rfl⟩
  · exact ⟨_, decodeHdigest_eq_command.mpr ⟨⟨eq_of_and_allOnes hb rfl, eq_of_and_allOnes hc rfl, eq_of_and_allOnes hm rfl⟩,
      rfl⟩, rfl⟩
  · exact ⟨_, decodeSign_eq_command.mpr ⟨eq_of_and_allOnes hm rfl, of_decide_eq_true hconstraint, rfl⟩, rfl⟩
  · exact ⟨_, decodeVerify_eq_command.mpr ⟨eq_of_and_allOnes hm rfl, notPoint_of_and hc rfl rfl, rfl⟩, rfl⟩

/-- Settles O3: the rows that select a word are those of the commands it decodes to, and it decodes to one at most. -/
theorem tableSelectsExactlyLegalWords : Obligations.TableSelectsExactlyLegalWords := by
  intro w
  have hrow : ∀ i, decode w = .command i → rowOf i ∈ opcodeTable ∧ rowSelects (rowOf i) w = true := by
    intro i h
    obtain ⟨rfl, hwf⟩ := encode_of_decode h
    exact ⟨rowOf_mem i, rowSelects_encode hwf⟩
  refine ⟨⟨fun ⟨i, h⟩ => ⟨rowOf i, hrow i h⟩, fun ⟨r, hr, h⟩ => ?_⟩, fun r hr r' hr' h h' => ?_, hrow⟩
  · obtain ⟨i, hi, -⟩ := decode_of_rowSelects hr h
    exact ⟨i, hi⟩
  · obtain ⟨i, hi, rfl⟩ := decode_of_rowSelects hr h
    obtain ⟨i', hi', rfl⟩ := decode_of_rowSelects hr' h'
    cases hi.symm.trans hi'
    rfl

/-- Settles O4: the decoder is evaluated on each word. -/
theorem decodeOfWordsInSpec : Obligations.DecodeOfWordsInSpec := by
  unfold Obligations.DecodeOfWordsInSpec
  decide

end Sys2Proof
end

section
/-! SUPPORT. A write to `CMD` as a step (30_encoding.md R50, R55). -/

namespace Sys2Proof.Machine

variable {s : State} {w : Word} {rest : List HostEvent}

/-- Outside the FAULT state a write to `CMD` issues the word, and is answered when the command has ended. -/
theorem step_command (hp : s.pending = .write 0x000 w :: rest) (hw : s.waiting = false) (hf : s.fault = false) :
    step s = completeWith .done (issue w { s with pending := rest }) := by
  rw [step_event hw hp]
  exact busWrite_cmd w hf

/-- Settles O5. -/
theorem stepRunsDecodedCommand : Obligations.StepRunsDecodedCommand := by
  intro s w i rest hp hw hf hd
  have hstep : step s = completeWith .done (exec i { s with pending := rest, cmd := w }) := by
    rw [step_command hp hw hf, issue_command hd]
    rfl
  refine ⟨hstep, fun t ht => ?_⟩
  rw [hstep, ht]
  rfl

/-- Settles O6: the fault record takes the word from `CMD`, which already holds it. -/
theorem illegalWordFaults : Obligations.IllegalWordFaults := by
  intro s w why rest hp hw hf hd
  rw [step_command hp hw hf, issue_illegal hd]
  exact completeWith_done hw

end Sys2Proof.Machine
end

section
/-! SUPPORT. Every command ends, and waits on a silent source alone (70_reset_and_hazards.md R186). -/

namespace Sys2Proof.Machine

open Sys2Proof.Claims

variable {s t : State} {i : Instr}

/-! ## A command that waits has met a silent answer -/

theorem draw_silent {p q : RandomPort} (h : draw p = .silent q) : .silent ∈ p.answers := by
  obtain ⟨k, r, hd, -⟩ | ⟨r, -, -, hp⟩ := draw_cases p
  · cases hd.symm.trans h
  · rw [hp]; exact List.mem_cons_self

theorem mem_answers_of_draw {p q : RandomPort} {k : Nat} {a : PortAnswer} (h : draw p = .answered k q) (ha : a ∈ q.answers) :
    a ∈ p.answers := by
  obtain ⟨k', r, hd, -, hr, -⟩ | ⟨r, hd, -⟩ := draw_cases p
  · cases hd.symm.trans h
    exact List.mem_of_mem_tail (hr ▸ ha)
  · cases hd.symm.trans h

/-- A retry draws from what the draws before it left, so a silent end has been in the queue from the start. -/
theorem signLoop_silent {c : Curve} {digest : DigestState} {d tries : Nat} {p q : RandomPort}
    (h : c.signLoop digest d tries p = .silent q) : .silent ∈ p.answers := by
  induction tries generalizing p with
  | zero => cases h
  | succ tries ih =>
    unfold Curve.signLoop at h
    split at h
    next hd => exact draw_silent hd
    next k after hd =>
      have retry : c.signLoop digest d tries after = .silent q → .silent ∈ p.answers := fun hr =>
        mem_answers_of_draw hd (ih hr)
      split at h
      · cases h
      split at h
      · cases h
      split at h
      · exact retry h
      split at h
      · cases h
      split at h
      · cases h
      split at h
      · exact retry h
      · cases h

theorem next_ne_of_waits {u : State} (hu : u.waiting = false) (ht : t.waiting = true) :
    (.next u : Result) ≠ .next t := fun h => by
  cases h
  cases hu.symm.trans ht

/-- A command that comes to wait has passed the check of `CURVE_OK`. -/
theorem eq_next_of_withCurve_waits {k : Curve → Result} (hw : s.waiting = false) (h : withCurve s k = .next t)
    (ht : t.waiting = true) : k (curveOf s.params) = .next t := by
  cases hc : s.curveOk with
  | true => exact (withCurve_on hc).symm.trans h
  | false => exact absurd ((withCurve_off hc).symm.trans h) (next_ne_of_waits hw ht)

theorem execKeygen_waits {rd : SReg} {pd : PReg} (hw : s.waiting = false) (h : execKeygen rd pd s = .next t)
    (ht : t.waiting = true) : .silent ∈ s.port.answers := by
  replace h := eq_next_of_withCurve_waits hw h ht
  split at h
  next hd => exact draw_silent hd
  next =>
    dsimp only at h
    split at h
    · exact absurd h (next_ne_of_waits hw ht)
    · split at h
      · exact absurd h (next_ne_of_waits hw ht)
      · exact absurd h (next_ne_of_waits hw ht)

theorem execSign_waits {rdR rdS rsD : SReg} (hw : s.waiting = false) (h : execSign rdR rdS rsD s = .next t)
    (ht : t.waiting = true) : .silent ∈ s.port.answers := by
  replace h := eq_next_of_withCurve_waits hw h ht
  split at h
  · exact absurd h (next_ne_of_waits hw ht)
  · obtain ⟨r, sg, q, -, hs⟩ | ⟨c, q, -, hs⟩ | ⟨q, hq, -⟩ := finishSign_cases s rdR rdS _
    · exact absurd (hs.symm.trans h) (next_ne_of_waits hw ht)
    · exact absurd (hs.symm.trans h) (next_ne_of_waits hw ht)
    · exact signLoop_silent hq

/-- Only KEYGEN and SIGN can wait, each on a draw that a silent answer meets. -/
theorem exec_waits (hw : s.waiting = false) (h : exec i s = .next t) (ht : t.waiting = true) :
    draws i = true ∧ .silent ∈ s.port.answers := by
  have hdraws : draws i = true := by
    by_contra hi
    have hsame := (exec_effect h).waiting_eq (eq_false_of_ne_true hi)
    simp [hw, ht] at hsame
  refine ⟨hdraws, ?_⟩
  cases i with
  | keygen rd pd => exact execKeygen_waits hw h ht
  | sign rdR rdS rsD => exact execSign_waits hw h ht
  | _ => cases hdraws

/-- A command that comes to wait writes nothing but the port. -/
theorem CommandEffect.eq_of_waits (h : CommandEffect i s t) (hw : s.waiting = false) (ht : t.waiting = true) :
    t = { s with waiting := true, port := t.port } := by
  cases h with
  | waits q _ _ => rfl
  | _ => cases hw.symm.trans ht

theorem takeReset_eq_none {es : List HostEvent} (h : .hardReset ∉ es) : takeReset es = none := by
  obtain ⟨-, hnone⟩ | ⟨before, rest, rfl, -, -⟩ := takeReset_cases es
  · exact hnone
  · exact absurd (List.mem_append_right before List.mem_cons_self) h

/-- Settles O20: of the ways to end only one waits, and it needs a silent answer in the queue. -/
theorem everyCommandEnds : Obligations.EveryCommandEnds := by
  refine ⟨fun i s hw => ?_, fun s hw hreset => step_waiting_stuck hw (takeReset_eq_none hreset)⟩
  obtain ⟨t, h, heffect⟩ := answers_exec i s
  refine ⟨t, h, ?_⟩
  cases ht : t.waiting with
  | false => exact .inl rfl
  | true =>
    obtain ⟨hdraws, hsilent⟩ := exec_waits hw h ht
    exact .inr ⟨hdraws, hsilent, heffect.eq_of_waits hw ht⟩

end Sys2Proof.Machine
end

section
/-! SUPPORT. The destinations of a command: every other register of the two files is left as it was (30_encoding.md R54, R56). -/

namespace Sys2Proof.Machine

open Sys2Proof.Claims

variable {i : Instr} {s t : State}

/-- From `s` to `t` only destination registers of command `i` change. -/
structure KeepsOthers (i : Instr) (s t : State) : Prop where
  scalars : ∀ j, j ∉ scalarDests i → readScalar t j = readScalar s j
  points : ∀ j, j ∉ pointDests i → readPointReg t j = readPointReg s j

/-- The same of a result, where it is a next state. -/
def ResultKeepsOthers (i : Instr) (s : State) (r : Result) : Prop := ∀ t, r = .next t → KeepsOthers i s t

theorem keepsOthers_next (h : KeepsOthers i s t) : ResultKeepsOthers i s (.next t) := fun _ ht => Result.next_inj.mp ht ▸ h

/-- Neither register file is written. -/
theorem keepsOthers_of_eq (hs : t.scalars = s.scalars) (hp : t.points = s.points) : KeepsOthers i s t :=
  ⟨fun j _ => by rw [readScalar, readScalar, getElem_congr_coll hs],
    fun j _ => by rw [readPointReg, readPointReg, getElem_congr_coll hp]⟩

theorem keepsOthers_refl : KeepsOthers i s s := keepsOthers_of_eq rfl rfl

theorem keepsOthers_port (q : RandomPort) : KeepsOthers i s { s with port := q } := keepsOthers_of_eq rfl rfl

theorem keepsOthers_setT (h : KeepsOthers i s t) (b : Bool) : KeepsOthers i s (setT t b) := ⟨h.scalars, h.points⟩

theorem keepsOthers_writeScalar {rd : SReg} (h : KeepsOthers i s t) (hrd : rd ∈ scalarDests i) (v : Wide) :
    KeepsOthers i s (writeScalar t rd v) :=
  ⟨fun j hj => (readScalar_writeScalar_other t rd j v fun e => hj (e ▸ hrd)).trans (h.scalars j hj), h.points⟩

theorem keepsOthers_setScalar {rd : SReg} (h : KeepsOthers i s t) (hrd : rd ∈ scalarDests i) (v : Nat) :
    KeepsOthers i s (setScalar t rd v) := keepsOthers_writeScalar h hrd _

theorem keepsOthers_setPoint {pd : PReg} (h : KeepsOthers i s t) (hpd : pd ∈ pointDests i) (v : Point) :
    KeepsOthers i s (setPoint t pd v) :=
  ⟨h.scalars, fun j hj => (readPointReg_setPoint_other t pd j v fun e => hj (e ▸ hpd)).trans (h.points j hj)⟩

/-- The result is a next state with both register files as they were. -/
theorem keepsOthers_next_of_eq (hs : t.scalars = s.scalars) (hp : t.points = s.points) : ResultKeepsOthers i s (.next t) :=
  keepsOthers_next (keepsOthers_of_eq hs hp)

/-! ## The shared operations -/

theorem keepsOthers_raiseFault (c : FaultCause) : ResultKeepsOthers i s (raiseFault c s) := keepsOthers_next_of_eq rfl rfl

theorem keepsOthers_fieldCommand {rd : SReg} (hrd : rd ∈ scalarDests i) (m : ModSel) (bad : Nat → Bool)
    (f : Nat → Except FaultCause Nat) : ResultKeepsOthers i s (fieldCommand s rd m bad f) := by
  obtain ⟨v, h, -, -⟩ | ⟨c, h⟩ := fieldCommand_cases s rd m bad f
  · rw [h]; exact keepsOthers_next (keepsOthers_setScalar keepsOthers_refl hrd v)
  · rw [h]; exact keepsOthers_raiseFault c

theorem keepsOthers_withCurve {k : Curve → Result} (h : ∀ c, ResultKeepsOthers i s (k c)) :
    ResultKeepsOthers i s (withCurve s k) := by
  cases hc : s.curveOk with
  | true => rw [withCurve_on hc]; exact h _
  | false => rw [withCurve_off hc]; exact keepsOthers_raiseFault .noCurve

theorem keepsOthers_pointCommand {pd : PReg} (hpd : pd ∈ pointDests i) (f : Curve → Except FaultCause Point) :
    ResultKeepsOthers i s (withCurve s fun c => finishPoint s pd (f c)) := by
  refine keepsOthers_withCurve fun c => ?_
  obtain ⟨v, -, h⟩ | ⟨e, -, h⟩ := finishPoint_cases s pd (f c)
  · rw [h]; exact keepsOthers_next (keepsOthers_setPoint keepsOthers_refl hpd v)
  · rw [h]; exact keepsOthers_raiseFault e

/-! ## One lemma per command with checks of its own -/

theorem keepsOthers_execSqrt (rd rs1 : SReg) (m : ModSel) :
    ResultKeepsOthers (.sqrt rd rs1 m) s (execSqrt rd rs1 m s) := by
  unfold execSqrt
  split
  · exact keepsOthers_raiseFault .modulus
  · split
    next c _ => exact keepsOthers_raiseFault c
    next r _ => exact keepsOthers_next (keepsOthers_setT (keepsOthers_setScalar keepsOthers_refl List.mem_cons_self r) true)
    next => exact keepsOthers_next_of_eq rfl rfl

theorem keepsOthers_execCinit : ResultKeepsOthers .cinit s (execCinit s) := by
  unfold execCinit
  split
  next c _ => exact keepsOthers_raiseFault c
  next => exact keepsOthers_next_of_eq rfl rfl

theorem keepsOthers_execPchk (ps1 : PReg) : ResultKeepsOthers (.pchk ps1) s (execPchk ps1 s) :=
  keepsOthers_withCurve fun _ => keepsOthers_next_of_eq rfl rfl

theorem keepsOthers_execPrec (pd : PReg) (rs1 : SReg) : ResultKeepsOthers (.prec pd rs1) s (execPrec pd rs1 s) := by
  refine keepsOthers_withCurve fun _ => ?_
  split
  · exact keepsOthers_raiseFault .range
  · split
    next c _ => exact keepsOthers_raiseFault c
    next V _ => exact keepsOthers_next (keepsOthers_setT (keepsOthers_setPoint keepsOthers_refl List.mem_cons_self V) true)
    next => exact keepsOthers_next_of_eq rfl rfl

theorem keepsOthers_execKeygen (rd : SReg) (pd : PReg) : ResultKeepsOthers (.keygen rd pd) s (execKeygen rd pd s) := by
  refine keepsOthers_withCurve fun _ => ?_
  split
  next => exact keepsOthers_next_of_eq rfl rfl
  next d after _ =>
    dsimp only
    split
    · exact keepsOthers_next_of_eq rfl rfl
    · split
      next => exact keepsOthers_next_of_eq rfl rfl
      next Q _ =>
        exact keepsOthers_next (keepsOthers_setPoint (keepsOthers_setScalar (keepsOthers_port after) List.mem_cons_self d)
          List.mem_cons_self Q)

theorem keepsOthers_execHappend (len : BitVec 12) : ResultKeepsOthers (.happend len) s (execHappend len s) := by
  unfold execHappend
  split
  · exact keepsOthers_raiseFault .hashLen
  · exact keepsOthers_next_of_eq rfl rfl

theorem keepsOthers_execHdigest (rd : SReg) : ResultKeepsOthers (.hdigest rd) s (execHdigest rd s) := by
  rw [execHdigest, digestValue_ok]
  exact keepsOthers_next (keepsOthers_writeScalar keepsOthers_refl List.mem_cons_self _)

theorem keepsOthers_execSign (rdR rdS rsD : SReg) :
    ResultKeepsOthers (.sign rdR rdS rsD) s (execSign rdR rdS rsD s) := by
  refine keepsOthers_withCurve fun _ => ?_
  split
  · exact keepsOthers_raiseFault .range
  · obtain ⟨r, sg, q, -, h⟩ | ⟨c, q, -, h⟩ | ⟨q, -, h⟩ := finishSign_cases s rdR rdS _
    · rw [h]
      exact keepsOthers_next (keepsOthers_setScalar (keepsOthers_setScalar (keepsOthers_port q) List.mem_cons_self r)
        (List.mem_cons_of_mem _ List.mem_cons_self) sg)
    · rw [h]; exact keepsOthers_next_of_eq rfl rfl
    · rw [h]; exact keepsOthers_next_of_eq rfl rfl

theorem keepsOthers_execVerify (rsR rsS : SReg) (psQ : PReg) :
    ResultKeepsOthers (.verify rsR rsS psQ) s (execVerify rsR rsS psQ s) := by
  refine keepsOthers_withCurve fun _ => ?_
  split
  next c _ => exact keepsOthers_raiseFault c
  next => exact keepsOthers_next_of_eq rfl rfl

/-- No meaning writes a register that is not a destination of its command. -/
theorem keepsOthers_exec (i : Instr) (s : State) : ResultKeepsOthers i s (exec i s) := by
  cases i with
  | modadd rd _ _ m => rw [exec, execModadd]; exact keepsOthers_fieldCommand List.mem_cons_self m _ _
  | modsub rd _ _ m => rw [exec, execModsub]; exact keepsOthers_fieldCommand List.mem_cons_self m _ _
  | modmul rd _ _ m => rw [exec, execModmul]; exact keepsOthers_fieldCommand List.mem_cons_self m _ _
  | montmul rd _ _ m => rw [exec, execMontmul]; exact keepsOthers_fieldCommand List.mem_cons_self m _ _
  | modexp rd _ _ m => rw [exec, execModexp]; exact keepsOthers_fieldCommand List.mem_cons_self m _ _
  | modinv rd _ m => rw [exec, execModinv]; exact keepsOthers_fieldCommand List.mem_cons_self m _ _
  | sqrt rd rs1 m => exact keepsOthers_execSqrt rd rs1 m
  | cinit => exact keepsOthers_execCinit
  | pchk ps1 => exact keepsOthers_execPchk ps1
  | prec pd rs1 => exact keepsOthers_execPrec pd rs1
  | padd pd _ _ => rw [exec, execPadd]; exact keepsOthers_pointCommand List.mem_cons_self _
  | pdbl pd _ => rw [exec, execPdbl]; exact keepsOthers_pointCommand List.mem_cons_self _
  | smul pd _ _ => rw [exec, execSmul]; exact keepsOthers_pointCommand List.mem_cons_self _
  | keygen rd pd => exact keepsOthers_execKeygen rd pd
  | hreset => exact keepsOthers_next_of_eq rfl rfl
  | happend len => exact keepsOthers_execHappend len
  | hdigest rd => exact keepsOthers_execHdigest rd
  | sign rdR rdS rsD => exact keepsOthers_execSign rdR rdS rsD
  | verify rsR rsS psQ => exact keepsOthers_execVerify rsR rsS psQ

/-- Settles O25: the register writes of each meaning go to its own destinations. -/
theorem onlyDestinationRegistersChange : Obligations.OnlyDestinationRegistersChange := by
  intro i s t h
  obtain ⟨hscalars, hpoints⟩ := keepsOthers_exec i s t h
  exact ⟨hscalars, hpoints⟩

end Sys2Proof.Machine
end

section
/-! SUPPORT. What `powmod` and `invmod` compute (40_field_arithmetic.md R78), as congruences modulo `m`. -/

namespace Sys2Proof.Machine

/-! ## The Euclidean remainder -/

theorem euclidMod_natCast (a m : Nat) : euclidMod (a : Int) m = a % m := by
  rw [euclidMod, ← Int.natCast_mod, Int.toNat_natCast]

theorem natCast_euclidMod {m : Nat} (hm : 0 < m) (x : Int) : (euclidMod x m : Int) = x % m :=
  Int.toNat_of_nonneg (Int.emod_nonneg x (by omega))

theorem euclidMod_lt {m : Nat} (hm : 0 < m) (x : Int) : euclidMod x m < m := by
  have hlt : x % (m : Int) < m := Int.emod_lt_of_pos x (by omega)
  rw [← natCast_euclidMod hm] at hlt
  omega

theorem euclidMod_modEq {m : Nat} (hm : 0 < m) (x : Int) : (euclidMod x m : Int) ≡ x [ZMOD m] := by
  rw [natCast_euclidMod hm]
  exact Int.mod_modEq x m

/-! ## Powers -/

/-- The loop keeps `acc · b^e` modulo `m`: a pass takes the low bit of `e` into `acc` and squares `b`. -/
theorem powmodLoop_eq {m : Nat} (fuel acc b e : Nat) (hfuel : e < 2 ^ fuel) (hacc : acc % m = acc) :
    powmodLoop fuel acc b e m = acc * b ^ e % m := by
  induction fuel generalizing acc b e with
  | zero =>
    obtain rfl : e = 0 := by omega
    simp [powmodLoop, hacc]
  | succ fuel ih =>
    rw [powmodLoop]
    split
    · next hzero => simp [hzero, hacc]
    · have hlow : (if e % 2 = 1 then acc * b % m else acc) ≡ acc * b ^ (e % 2) [MOD m] := by
        obtain heven | hodd := Nat.mod_two_eq_zero_or_one e
        · simp [heven, Nat.ModEq.refl]
        · simp [hodd, Nat.mod_modEq]
      have hsquare : (b * b % m) ^ (e / 2) ≡ (b * b) ^ (e / 2) [MOD m] := (Nat.mod_modEq _ m).pow _
      have hexp : acc * b ^ (e % 2) * (b * b) ^ (e / 2) = acc * b ^ e := by
        rw [← sq, ← pow_mul, mul_assoc, ← pow_add, Nat.mod_add_div]
      rw [ih _ _ _ (by omega) (by split <;> simp [hacc]), ← hexp]
      exact hlow.mul hsquare

theorem powmod_eq (b e m : Nat) : powmod b e m = b ^ e % m := by
  rw [powmod, powmodLoop_eq _ _ _ _ Nat.lt_log2_self (Nat.mod_mod 1 m)]
  calc 1 % m * (b % m) ^ e ≡ 1 * b ^ e [MOD m] := (Nat.mod_modEq 1 m).mul ((Nat.mod_modEq b m).pow e)
    _ = b ^ e := one_mul _

/-! ## Inverses -/

/-- Extended Euclid: where `t0` and `t1` times `v` are the two remainders modulo `m`, the answer times `v` is their gcd. -/
theorem euclidLoop_mul_modEq {m : Nat} {v : Int} (fuel r0 r1 : Nat) (t0 t1 : Int) (hfuel : r1 ≤ fuel)
    (h0 : t0 * v ≡ r0 [ZMOD m]) (h1 : t1 * v ≡ r1 [ZMOD m]) :
    euclidLoop fuel r0 r1 t0 t1 * v ≡ (Nat.gcd r0 r1 : Nat) [ZMOD m] := by
  induction fuel generalizing r0 r1 t0 t1 with
  | zero =>
    obtain rfl : r1 = 0 := by omega
    simpa [euclidLoop] using h0
  | succ fuel ih =>
    rw [euclidLoop]
    split
    · next hzero => simpa [hzero] using h0
    · next hne =>
      have hlt : r0 % r1 < r1 := Nat.mod_lt _ (by omega)
      have hrem : ((r0 % r1 : Nat) : Int) = r0 - (r0 / r1 : Nat) * r1 := by
        rw [Int.natCast_mod, Int.emod_def, Int.natCast_div, mul_comm]
      have hnext : (t0 - (r0 / r1 : Nat) * t1) * v ≡ (r0 % r1 : Nat) [ZMOD m] := by
        rw [hrem, sub_mul, mul_assoc]
        exact h0.sub (h1.mul_left _)
      rw [Nat.gcd_comm, Nat.gcd_rec, Nat.gcd_comm]
      exact ih _ _ _ _ (by omega) h1 hnext

/-- `invmod` where the gcd is 1 (40_field_arithmetic.md R78). -/
theorem invmod_ok {v : Int} {m : Nat} (hm : 2 ≤ m) (hgcd : Nat.gcd (euclidMod v m) m = 1) :
    ∃ u, invmod v m = .ok u ∧ 1 ≤ u ∧ u < m ∧ v * u ≡ 1 [ZMOD m] := by
  have hpos : 0 < m := by omega
  refine ⟨_, if_pos hgcd, ?_⟩
  generalize ht : euclidLoop m m (euclidMod v m) 0 1 = t
  have hloop : t * v ≡ 1 [ZMOD m] := by
    have h := euclidLoop_mul_modEq (m := m) (v := v) m m (euclidMod v m) 0 1 (euclidMod_lt hpos v).le
      (by simp [Int.ModEq]) (by simpa using (euclidMod_modEq hpos v).symm)
    rwa [ht, Nat.gcd_comm, hgcd] at h
  have hinv : v * (euclidMod t m : Nat) ≡ 1 [ZMOD m] := by
    rw [mul_comm]
    exact ((euclidMod_modEq hpos t).mul_right v).trans hloop
  refine ⟨Nat.one_le_iff_ne_zero.mpr fun hzero => ?_, euclidMod_lt hpos t, hinv⟩
  rw [hzero, Nat.cast_zero, mul_zero, Int.ModEq, Int.zero_emod, Int.emod_eq_of_lt] at hinv <;> omega

theorem invmod_error {v : Int} {m : Nat} (hgcd : Nat.gcd (euclidMod v m) m ≠ 1) : invmod v m = .error .notInvertible :=
  ((invmod_cases v m).resolve_left fun h => hgcd h.1).2

/-- `invmod` of a natural number that is coprime to `m`. -/
theorem invmod_natCast_ok {a m : Nat} (hm : 2 ≤ m) (hco : Nat.Coprime a m) :
    ∃ u, invmod (a : Int) m = .ok u ∧ 1 ≤ u ∧ u < m ∧ a * u ≡ 1 [MOD m] := by
  have hgcd : Nat.gcd (euclidMod a m) m = 1 := by
    rw [euclidMod_natCast, (Nat.mod_modEq a m).gcd_eq]
    exact hco
  obtain ⟨u, hu, hpos, hlt, hinv⟩ := invmod_ok hm hgcd
  exact ⟨u, hu, hpos, hlt, Int.natCast_modEq_iff.mp (by exact_mod_cast hinv)⟩

theorem modEq_one_iff {a m : Nat} (hm : 2 ≤ m) : a ≡ 1 [MOD m] ↔ a % m = 1 := by
  rw [Nat.ModEq, Nat.mod_eq_of_lt hm]

/-! ## The Montgomery product -/

theorem coprime_radix {m : Nat} (hodd : m % 2 = 1) : Nat.Coprime Config.radix m :=
  (Nat.coprime_two_left.mpr (Nat.odd_iff.mpr hodd)).pow_left 256

/-- For an odd modulus the radix has an inverse `u`, and the product is taken with it (40_field_arithmetic.md R75). -/
theorem montgomeryProduct_eq {m : Nat} (hm : 2 ≤ m) (hodd : m % 2 = 1) :
    ∃ u, 1 ≤ u ∧ u < m ∧ 2 ^ 256 * u ≡ 1 [MOD m] ∧ ∀ a b, montgomeryProduct a b m = .ok (a * b * u % m) := by
  obtain ⟨u, hu, hpos, hlt, hinv⟩ := invmod_natCast_ok hm (coprime_radix hodd)
  exact ⟨u, hpos, hlt, hinv, fun a b => by rw [montgomeryProduct, hu]⟩

/-- With `u` the inverse of `r`, a factor `r mod m` and the factor `u` cancel. -/
theorem mul_mod_mul_inverse {m r u : Nat} (hinv : r * u ≡ 1 [MOD m]) (a : Nat) : a * (r % m) * u % m = a % m :=
  calc a * (r % m) * u ≡ a * r * u [MOD m] := ((Nat.mod_modEq r m).mul_left a).mul_right u
    _ = a * (r * u) := mul_assoc a r u
    _ ≡ a * 1 [MOD m] := Nat.ModEq.mul_left a hinv
    _ = a := mul_one a

/-- Two products, the second with `R² mod m`, take two factors `R` off and put them back (40_field_arithmetic.md R79). -/
theorem montgomery_twice {m u : Nat} (hinv : 2 ^ 256 * u ≡ 1 [MOD m]) (a : Nat) :
    a * u % m * (2 ^ 512 % m) * u % m = a % m := by
  have hsquare : 2 ^ 512 * (u * u) ≡ 1 [MOD m] := by
    rw [show 512 = 256 + 256 from rfl, pow_add, mul_mul_mul_comm]
    exact hinv.mul hinv
  calc a * u % m * (2 ^ 512 % m) * u ≡ a * u * (2 ^ 512 % m) * u [MOD m] :=
        ((Nat.mod_modEq _ m).mul_right _).mul_right u
    _ = a * (2 ^ 512 % m) * (u * u) := by ring
    _ ≡ a [MOD m] := mul_mod_mul_inverse hsquare a

end Sys2Proof.Machine
end

section
/-! SUPPORT. The field commands (40_field_arithmetic.md R70 to R79). -/

namespace Sys2Proof.Machine

open Sys2Proof.Claims

variable {s : State} {rd rs1 rs2 : SReg} {sel : ModSel} {f : Nat → Except FaultCause Nat}

/-! ## The statements' names for the operations of the model -/

theorem selectedModulus_eq_modulus (s : State) (sel : ModSel) : selectedModulus s sel = modulus s sel := by
  cases sel <;> rfl

theorem mkWord_mselBits (op : BitVec 8) (fa fb fc : BitVec 4) (sel : ModSel) :
    mkWord op fa fb fc (mselBits sel) = wordOf op fa fb fc (mselImm sel) := by
  cases sel <;> rfl

theorem modulus_lt (s : State) (sel : ModSel) : modulus s sel < 2 ^ 256 := by
  cases sel <;> exact BitVec.isLt _

@[simp] theorem modulus_withScalar (s : State) (rd : SReg) (v : Nat) (sel : ModSel) :
    modulus (withScalar s rd v) sel = modulus s sel := by
  cases sel <;> rfl

theorem scalar_withScalar_same (s : State) (i : SReg) {v : Nat} (h : v < 2 ^ 256) : scalar (withScalar s i v) i = v :=
  scalar_setScalar_same s i v h

theorem scalar_withScalar_other (s : State) {i j : SReg} (v : Nat) (h : j ≠ i) :
    scalar (withScalar s i v) j = scalar s j :=
  congrArg BitVec.toNat (readScalar_setScalar_other s i j v h)

theorem withScalar_withScalar (s : State) (i : SReg) (v w : Nat) :
    withScalar (withScalar s i v) i w = withScalar s i w := by
  simp [withScalar]

/-! ## What a field command does, by its modulus -/

theorem fieldCommand_of_lt_two (h : modulus s sel < 2) :
    fieldCommand s rd sel belowTwo f = .next (faultState 0x03 s) :=
  fieldCommand_bad (by simpa [belowTwo, selectedModulus_eq_modulus] using h)

theorem belowTwo_of_two_le (h : 2 ≤ modulus s sel) : belowTwo (selectedModulus s sel) = false := by
  rw [belowTwo, selectedModulus_eq_modulus]
  exact decide_eq_false (by omega)

theorem fieldCommand_of_two_le {v : Nat} (h : 2 ≤ modulus s sel) (hf : f (modulus s sel) = .ok v) :
    fieldCommand s rd sel belowTwo f = .next (withScalar s rd v) :=
  fieldCommand_ok (belowTwo_of_two_le h) (by rwa [selectedModulus_eq_modulus])

/-- MODMUL with a modulus that will do. -/
theorem exec_modmul (h : 2 ≤ modulus s sel) : exec (.modmul rd rs1 rs2 sel) s =
    .next (withScalar s rd (scalar s rs1 * scalar s rs2 % modulus s sel)) := by
  rw [exec, execModmul]
  exact fieldCommand_of_two_le h rfl

/-- MONTMUL with an odd modulus `m`: one inverse of the radix serves every run with that modulus. -/
theorem exec_montmul {m : Nat} (hm : 2 ≤ m) (hodd : m % 2 = 1) :
    ∃ u, 1 ≤ u ∧ u < m ∧ 2 ^ 256 * u ≡ 1 [MOD m] ∧
      ∀ (s : State) (rd rs1 rs2 : SReg) (sel : ModSel), modulus s sel = m →
        exec (.montmul rd rs1 rs2 sel) s = .next (withScalar s rd (scalar s rs1 * scalar s rs2 * u % m)) := by
  obtain ⟨u, hpos, hlt, hinv, hproduct⟩ := montgomeryProduct_eq hm hodd
  refine ⟨u, hpos, hlt, hinv, fun s rd rs1 rs2 sel hsel => ?_⟩
  rw [exec, execMontmul]
  refine fieldCommand_ok ?_ ?_
  · rw [selectedModulus_eq_modulus, hsel, belowTwoOrEven, decide_eq_false (by omega), decide_eq_false (by omega), Bool.or_self]
  · rw [selectedModulus_eq_modulus, hsel, hproduct]

/-! ## The obligations -/

/-- Settles O29. -/
theorem modaddResult : Obligations.ModaddResult := by
  intro s rd rs1 rs2 sel
  rw [exec, execModadd]
  exact ⟨mkWord_mselBits _ _ _ _ sel, rfl, rfl, fieldCommand_of_lt_two, fun h => fieldCommand_of_two_le h rfl⟩

/-- Settles O30: the residue is the Euclidean remainder of the difference. -/
theorem modsubResult : Obligations.ModsubResult := by
  intro s rd rs1 rs2 sel
  rw [exec, execModsub]
  refine ⟨mkWord_mselBits _ _ _ _ sel, fieldCommand_of_lt_two, fun h => ?_⟩
  have hpos : 0 < modulus s sel := by omega
  exact ⟨euclidMod ((scalar s rs1 : Int) - scalar s rs2) (modulus s sel), euclidMod_lt hpos _,
    (euclidMod_modEq hpos _).dvd, fieldCommand_of_two_le h rfl⟩

/-- Settles O31. -/
theorem modmulResult : Obligations.ModmulResult := by
  intro s rd rs1 rs2 sel
  refine ⟨mkWord_mselBits _ _ _ _ sel, fun h => ?_, exec_modmul⟩
  rw [exec, execModmul]
  exact fieldCommand_of_lt_two h

/-- Settles O32: the radix is a power of 2, so it has an inverse modulo an odd modulus. -/
theorem montmulResult : Obligations.MontmulResult := by
  intro s rd rs1 rs2 sel
  refine ⟨mkWord_mselBits _ _ _ _ sel, fun h => ?_, fun hm hodd => ?_⟩
  · rw [exec, execMontmul]
    exact fieldCommand_bad (by simpa [selectedModulus_eq_modulus, belowTwoOrEven] using h)
  · obtain ⟨u, hpos, hlt, hinv, hexec⟩ := exec_montmul hm hodd
    exact ⟨u, hpos, hlt, (modEq_one_iff hm).mp hinv, hexec s rd rs1 rs2 sel rfl⟩

/-- Settles O33: a Montgomery product takes one factor `R` off, and both runs use the same inverse of `R`. -/
theorem montgomeryRelations : Obligations.MontgomeryRelations := by
  intro s t rd rs1 rs2 rr sel hm hodd
  have hm2 : 2 ≤ modulus s sel := by omega
  obtain ⟨u, -, -, hinv, hexec⟩ := exec_montmul hm2 hodd
  refine ⟨fun hne hrr ht => ?_, fun hR => ?_⟩
  · obtain rfl := Result.next_inj.mp ((hexec s rd rs1 rs2 sel rfl).symm.trans ht)
    have hfit : scalar s rs1 * scalar s rs2 * u % modulus s sel < 2 ^ 256 :=
      (Nat.mod_lt _ (by omega)).trans (modulus_lt s sel)
    rw [hexec _ rd rd rr sel (modulus_withScalar ..), withScalar_withScalar, scalar_withScalar_same s rd hfit,
      scalar_withScalar_other s _ hne, hrr, exec_modmul hm2, montgomery_twice hinv]
  · rw [hexec s rd rs1 rs2 sel rfl, hR, mul_mod_mul_inverse hinv]

/-- Settles O34. -/
theorem modexpResult : Obligations.ModexpResult := by
  intro s rd rs1 rs2 sel
  rw [exec, execModexp]
  exact ⟨mkWord_mselBits _ _ _ _ sel, fieldCommand_of_lt_two,
    fun h => fieldCommand_of_two_le h (congrArg Except.ok (powmod_eq ..))⟩

/-- Settles O35: two inverses agree, since the operand is coprime to the modulus. -/
theorem modinvResult : Obligations.ModinvResult := by
  intro s rd rs1 sel
  rw [exec, execModinv]
  refine ⟨mkWord_mselBits _ _ _ _ sel, fieldCommand_of_lt_two, fun h hgcd => ?_, fun h hgcd => ?_⟩
  · refine fieldCommand_error (belowTwo_of_two_le h) (invmod_error ?_)
    rwa [selectedModulus_eq_modulus, euclidMod_natCast]
  · have hco : Nat.Coprime (scalar s rs1) (modulus s sel) := (Nat.mod_modEq _ _).gcd_eq.symm.trans hgcd
    obtain ⟨u, hu, hpos, hlt, hinv⟩ := invmod_natCast_ok h hco
    refine ⟨u, hpos, by omega, (modEq_one_iff h).mp hinv, fun u' _ hle hinv' => ?_, fieldCommand_of_two_le h hu⟩
    have hsame : scalar s rs1 * u' ≡ scalar s rs1 * u [MOD modulus s sel] := ((modEq_one_iff h).mpr hinv').trans hinv.symm
    exact (hsame.cancel_left_of_coprime hco.symm).eq_of_lt_of_lt (by omega) hlt

end Sys2Proof.Machine
end

section
/-! SUPPORT. The square root (41_sqrt.md R90 to R93). Modulo a prime `p` the loop of Tonelli-Shanks is followed in `ZMod p`. -/

namespace Sys2Proof.Machine

open Sys2Proof.Claims

variable {p : Nat}

/-! ## The Legendre power -/

theorem powmod_lt (hp : 0 < p) (b e : Nat) : powmod b e p < p := by
  rw [powmod_eq]
  exact Nat.mod_lt _ hp

theorem natCast_powmod (b e p : Nat) : (powmod b e p : ZMod p) = (b : ZMod p) ^ e := by
  rw [powmod_eq, ZMod.natCast_mod, Nat.cast_pow]

theorem natCast_eq_one_iff (hp : 2 ≤ p) {a : Nat} (ha : a < p) : (a : ZMod p) = 1 ↔ a = 1 := by
  rw [← Nat.cast_one, ZMod.natCast_eq_natCast_iff', Nat.mod_eq_of_lt ha, Nat.mod_eq_of_lt hp]

theorem legendre_eq_one_iff (hp : 3 ≤ p) (x : Nat) : legendre x p = 1 ↔ x ^ ((p - 1) / 2) % p = 1 := by
  rw [legendre, powmod_eq]
  split <;> omega

theorem legendre_eq_neg_one_iff (x p : Nat) : legendre x p = -1 ↔ x ^ ((p - 1) / 2) % p = p - 1 := by
  rw [legendre, powmod_eq]
  split <;> omega

theorem natCast_pow_of_legendre_eq_one (hp : 3 ≤ p) {x : Nat} (h : legendre x p = 1) : (x : ZMod p) ^ ((p - 1) / 2) = 1 := by
  rw [← natCast_powmod, powmod_eq, (legendre_eq_one_iff hp x).mp h, Nat.cast_one]

theorem legendre_eq_neg_one_iff_natCast (hp : 0 < p) (x : Nat) :
    legendre x p = -1 ↔ (x : ZMod p) ^ ((p - 1) / 2) = -1 := by
  have hneg : ((p - 1 : Nat) : ZMod p) = -1 := by
    rw [Nat.cast_sub hp, ZMod.natCast_self, Nat.cast_one, zero_sub]
  rw [legendre_eq_neg_one_iff, ← hneg, ← Nat.cast_pow, ZMod.natCast_eq_natCast_iff', Nat.mod_eq_of_lt (by omega : p - 1 < p)]

/-! ## The odd part of `p - 1` -/

/-- Step 2 takes every factor 2 out of `q` and adds their number to `s` (41_sqrt.md R91). -/
theorem halveLoop_eq (fuel q s : Nat) (hpos : 0 < q) (hfuel : q ≤ fuel) :
    ∃ q' k, halveLoop fuel q s = (q', s + k) ∧ q = 2 ^ k * q' ∧ q' % 2 = 1 := by
  induction fuel generalizing q s with
  | zero => omega
  | succ fuel ih =>
    rw [halveLoop]
    split
    · next heven =>
      obtain ⟨q', k, hloop, hq, hodd⟩ := ih (q / 2) (s + 1) (by omega) (by omega)
      refine ⟨q', k + 1, by rw [hloop, add_assoc, add_comm 1], ?_, hodd⟩
      rw [pow_succ', mul_assoc, ← hq]
      omega
    · next hodd => exact ⟨q, 0, rfl, (one_mul q).symm, by omega⟩

theorem halveLoop_pred (hp : 3 ≤ p) :
    ∃ q s, halveLoop (p - 1) (p - 1) 0 = (q, s) ∧ p - 1 = 2 ^ s * q ∧ q % 2 = 1 := by
  obtain ⟨q, k, hloop, hq, hodd⟩ := halveLoop_eq (p - 1) (p - 1) 0 (by omega) le_rfl
  exact ⟨q, k, by rw [hloop, zero_add], hq, hodd⟩

/-- The modulus is 3 modulo 4 exactly where step 2 halves once. -/
theorem halvings_eq_one_iff {q s : Nat} (hp : 3 ≤ p) (hq : p - 1 = 2 ^ s * q) (hodd : q % 2 = 1) : s = 1 ↔ p % 4 = 3 := by
  match s with
  | 0 => omega
  | 1 => omega
  | s + 2 =>
    rw [pow_add, mul_comm (2 ^ s), mul_assoc] at hq
    omega

/-! ## The search for a non-residue -/

/-- Step 4 ends with a non-residue if there is one from `z` on (41_sqrt.md R91). -/
theorem nonResidueLoop_ok {z w : Nat} (fuel : Nat) (hzw : z ≤ w) (hfuel : w < z + fuel) (hw : w < p) (hleg : legendre w p = -1) :
    ∃ z', nonResidueLoop fuel z p = .ok z' ∧ legendre z' p = -1 := by
  induction fuel generalizing z with
  | zero => omega
  | succ fuel ih =>
    rw [nonResidueLoop]
    split
    · next h => exact ⟨z, rfl, h⟩
    · next h =>
      have hne : z ≠ w := by
        rintro rfl
        exact h hleg
      rw [if_neg (by omega)]
      exact ih (by omega) (by omega)

section Prime

variable [Fact p.Prime]

theorem exists_nonResidue (hp : 3 ≤ p) : ∃ w, 2 ≤ w ∧ w < p ∧ legendre w p = -1 := by
  obtain ⟨a, ha⟩ := FiniteField.exists_nonsquare (F := ZMod p) (by rw [ZMod.ringChar_zmod_n]; omega)
  have hne0 : a ≠ 0 := by
    rintro rfl
    exact ha IsSquare.zero
  have hne1 : a ≠ 1 := by
    rintro rfl
    exact ha IsSquare.one
  have hodd : p % 2 = 1 := (Fact.out : p.Prime).mod_two_eq_one_iff_ne_two.mpr (by omega)
  have hpow : a ^ (p / 2) = -1 :=
    (ZMod.pow_div_two_eq_neg_one_or_one p hne0).resolve_left fun h => ha ((ZMod.euler_criterion p hne0).mpr h)
  have hval : ((a.val : Nat) : ZMod p) = a := ZMod.natCast_zmod_val a
  refine ⟨a.val, ?_, ZMod.val_lt a, ?_⟩
  · have h0 : a.val ≠ 0 := fun h => hne0 (by rw [← hval, h, Nat.cast_zero])
    have h1 : a.val ≠ 1 := fun h => hne1 (by rw [← hval, h, Nat.cast_one])
    omega
  · rw [legendre_eq_neg_one_iff_natCast (by omega), hval, show (p - 1) / 2 = p / 2 by omega, hpow]

/-- Step 4 never fails modulo an odd prime. -/
theorem nonResidueLoop_two (hp : 3 ≤ p) :
    ∃ z, nonResidueLoop p 2 p = .ok z ∧ legendre z p = -1 := by
  obtain ⟨w, hle, hlt, hleg⟩ := exists_nonResidue hp
  exact nonResidueLoop_ok p hle (by omega) hlt hleg

/-! ## The main loop -/

/-- Step 5 finds the exponent of an order that is a power of 2 (41_sqrt.md R91). -/
theorem orderLoop_eq (left j u i : Nat) (hu : u < p) (hord : orderOf (u : ZMod p) = 2 ^ i) (hi : i < left) :
    orderLoop left j u p = some (j + i) := by
  have hp : 2 ≤ p := (Fact.out : p.Prime).two_le
  induction left generalizing j u i with
  | zero => omega
  | succ left ih =>
    have hone : u = 1 ↔ i = 0 := by
      rw [← natCast_eq_one_iff hp hu, ← orderOf_eq_one_iff, hord]
      simp
    rw [orderLoop]
    match i with
    | 0 => rw [if_pos (hone.mpr rfl), add_zero]
    | i + 1 =>
      have hsquare : orderOf ((u * u % p : Nat) : ZMod p) = 2 ^ i := by
        rw [ZMod.natCast_mod, Nat.cast_mul, ← pow_two, orderOf_pow_of_dvd two_ne_zero (hord ▸ dvd_pow_self 2 (by omega)), hord,
          pow_succ, Nat.mul_div_cancel _ two_pos]
      rw [if_neg (by omega), ih (j + 1) _ i (Nat.mod_lt _ (by omega)) hsquare (by omega), add_right_comm, add_assoc]

/-- An element of order `2^(i+1)` is a `2^i`-th root of -1. -/
theorem pow_eq_neg_one_of_orderOf {a : ZMod p} {i : Nat} (hord : orderOf a = 2 ^ (i + 1)) : a ^ 2 ^ i = -1 :=
  ((IsPrimitiveRoot.orderOf a).pow (by rw [hord]; positivity) (hord.trans (pow_succ 2 i))).eq_neg_one_of_two_right

/-- What holds of `c, t, r, m` before each pass of step 5 (41_sqrt.md R91): `r` is a square root of `x·t`, the order of `t` divides
`2^(m-1)`, and that of `c` is `2^m`. -/
structure TonelliInv (p x c t r m : Nat) : Prop where
  m_pos : 1 ≤ m
  t_lt : t < p
  r_lt : r < p
  root : (r : ZMod p) * r = x * t
  t_pow : (t : ZMod p) ^ 2 ^ (m - 1) = 1
  c_pow : (c : ZMod p) ^ 2 ^ (m - 1) = -1

theorem TonelliInv.exists_order {x c t r m : Nat} (h : TonelliInv p x c t r m) (ht : t ≠ 1) :
    ∃ i, i + 1 < m ∧ orderOf (t : ZMod p) = 2 ^ (i + 1) := by
  obtain ⟨i, hle, hord⟩ := (Nat.dvd_prime_pow Nat.prime_two).mp (orderOf_dvd_of_pow_eq_one h.t_pow)
  have hne : orderOf (t : ZMod p) ≠ 1 := by
    rwa [Ne, orderOf_eq_one_iff, natCast_eq_one_iff (Fact.out : p.Prime).two_le h.t_lt]
  have hpos := h.m_pos
  match i with
  | 0 => exact absurd hord hne
  | i + 1 => exact ⟨i, by omega, hord⟩

/-- Step 6 keeps the invariant: `t` and the square of `b` are both `2^i`-th roots of -1, so the order of their product divides
`2^i`. -/
theorem TonelliInv.next {x c t r m i b : Nat} (h : TonelliInv p x c t r m) (hi : i + 1 < m)
    (hord : orderOf (t : ZMod p) = 2 ^ (i + 1)) (hb : b = powmod c (2 ^ (m - (i + 1) - 1)) p) :
    TonelliInv p x (b * b % p) (t * (b * b % p) % p) (r * b % p) (i + 1) := by
  have hp : 0 < p := (Fact.out : p.Prime).pos
  have hbb : (b * b : ZMod p) ^ 2 ^ i = -1 := by
    rw [← h.c_pow, hb, natCast_powmod, ← pow_two, ← pow_mul, ← pow_mul, ← pow_succ', ← pow_add]
    congr 2
    omega
  refine ⟨by omega, Nat.mod_lt _ hp, Nat.mod_lt _ hp, ?_, ?_, ?_⟩
  · push_cast [ZMod.natCast_mod]
    linear_combination (b * b : ZMod p) * h.root
  · push_cast [ZMod.natCast_mod]
    rw [mul_pow, hbb, pow_eq_neg_one_of_orderOf hord, neg_one_mul, neg_neg]
  · push_cast [ZMod.natCast_mod]
    exact hbb

/-- Steps 5 and 6 end with a root of `x`: `m` falls at each pass (41_sqrt.md R91). -/
theorem tonelliLoop_eq_some {x c t r m : Nat} (fuel : Nat) (h : TonelliInv p x c t r m) (hfuel : m ≤ fuel) :
    ∃ v, tonelliLoop fuel c t r m p = some v ∧ v < p ∧ (v : ZMod p) * v = x := by
  induction fuel generalizing c t r m with
  | zero => exact absurd h.m_pos (by omega)
  | succ fuel ih =>
    rw [tonelliLoop]
    split
    · next ht => exact ⟨r, rfl, h.r_lt, by rw [h.root, ht, Nat.cast_one, mul_one]⟩
    · next ht =>
      obtain ⟨i, hi, hord⟩ := h.exists_order ht
      rw [orderLoop_eq m 0 t (i + 1) h.t_lt hord hi, zero_add]
      exact ih (h.next hi hord rfl) (by omega)

/-- The values with which step 5 begins satisfy the invariant when `x` is a residue and `z` is none. -/
theorem tonelliInv_initial {x z q s : Nat} (hp : 3 ≤ p) (hs : 1 ≤ s) (hq : p - 1 = 2 ^ s * q) (hodd : q % 2 = 1)
    (hx : legendre x p = 1) (hz : legendre z p = -1) :
    TonelliInv p x (powmod z q p) (powmod x q p) (powmod x ((q + 1) / 2) p) s := by
  have hpos : 0 < p := by omega
  have hhalf : q * 2 ^ (s - 1) = (p - 1) / 2 := by
    obtain ⟨s, rfl⟩ := Nat.exists_eq_add_of_le' hs
    rw [hq, Nat.add_sub_cancel, pow_succ', mul_assoc, Nat.mul_div_cancel_left _ two_pos, mul_comm]
  refine ⟨hs, powmod_lt hpos _ _, powmod_lt hpos _ _, ?_, ?_, ?_⟩
  · rw [natCast_powmod, natCast_powmod, ← pow_add, ← pow_succ']
    congr 1
    omega
  · rw [natCast_powmod, ← pow_mul, hhalf, natCast_pow_of_legendre_eq_one hp hx]
  · rw [natCast_powmod, ← pow_mul, hhalf, (legendre_eq_neg_one_iff_natCast hpos z).mp hz]

end Prime

/-! ## `sqrt_mod` -/

theorem sqrtMod_none {x : Nat} (h : legendre x p ≠ 1) : sqrtMod x p = .ok none := if_pos h

/-- Step 3, the closed form (41_sqrt.md R91). -/
theorem sqrtMod_closedForm {x : Nat} (hp : 3 ≤ p) (hmod : p % 4 = 3) (hx : legendre x p = 1) :
    sqrtMod x p = .ok (some (powmod x ((p + 1) / 4) p)) := by
  obtain ⟨q, s, hloop, hq, hodd⟩ := halveLoop_pred hp
  rw [sqrtMod, if_neg (not_not.mpr hx), hloop]
  exact if_pos ((halvings_eq_one_iff hp hq hodd).mpr hmod)

theorem closedForm_mul_self {x : Nat} (hp : 3 ≤ p) (hmod : p % 4 = 3) (hx : legendre x p = 1) :
    (powmod x ((p + 1) / 4) p : ZMod p) * powmod x ((p + 1) / 4) p = x := by
  have hexp : (p + 1) / 4 + (p + 1) / 4 = (p - 1) / 2 + 1 := by omega
  rw [natCast_powmod, ← pow_add, hexp, pow_succ, natCast_pow_of_legendre_eq_one hp hx, one_mul]

/-- Modulo an odd prime `sqrt_mod` gives a square root of every residue (41_sqrt.md R93). -/
theorem sqrtMod_of_prime {x : Nat} [Fact p.Prime] (hp : 3 ≤ p) (hx : legendre x p = 1) :
    ∃ v, sqrtMod x p = .ok (some v) ∧ v < p ∧ (v : ZMod p) * v = x := by
  by_cases hmod : p % 4 = 3
  · exact ⟨_, sqrtMod_closedForm hp hmod hx, powmod_lt (by omega) _ _, closedForm_mul_self hp hmod hx⟩
  · obtain ⟨q, s, hloop, hq, hodd⟩ := halveLoop_pred hp
    obtain ⟨z, hsearch, hz⟩ := nonResidueLoop_two hp
    have hs1 : s ≠ 1 := fun h => hmod ((halvings_eq_one_iff hp hq hodd).mp h)
    have hs0 : s ≠ 0 := by
      rintro rfl
      have hpodd : p % 2 = 1 := (Fact.out : p.Prime).mod_two_eq_one_iff_ne_two.mpr (by omega)
      omega
    obtain ⟨v, hv, hlt, hroot⟩ := tonelliLoop_eq_some (s + 1) (tonelliInv_initial hp (by omega) hq hodd hx hz) (by omega)
    refine ⟨v, ?_, hlt, hroot⟩
    rw [sqrtMod, if_neg (not_not.mpr hx), hloop]
    simp only [if_neg hs1, hsearch, hv]

/-! ## The command -/

section Command

variable {s : State} {rd rs1 : SReg} {sel : ModSel}

/-- SQRT with a modulus that will do, where `sqrt_mod` gives a root or none (41_sqrt.md R92). -/
theorem exec_sqrt_of_ok {o : Option Nat} (hp : 3 ≤ modulus s sel) (hodd : modulus s sel % 2 = 1)
    (h : sqrtMod (scalar s rs1) (modulus s sel) = .ok o) :
    exec (.sqrt rd rs1 sel) s =
      .next (o.elim { s with t := false } fun v => { withScalar s rd v with t := true }) := by
  rw [exec, execSqrt, selectedModulus_eq_modulus, if_neg (by omega), h]
  cases o <;> rfl

/-- SQRT ends at step 1 of `sqrt_mod` where the Legendre power is not 1 (41_sqrt.md R91, R92). -/
theorem exec_sqrt_none (hp : 3 ≤ modulus s sel) (hodd : modulus s sel % 2 = 1)
    (h : scalar s rs1 ^ ((modulus s sel - 1) / 2) % modulus s sel ≠ 1) :
    exec (.sqrt rd rs1 sel) s = .next { s with t := false } :=
  exec_sqrt_of_ok hp hodd (sqrtMod_none fun hx => h ((legendre_eq_one_iff hp _).mp hx))

end Command

/-- Settles O36: a modulus that is 3 modulo 4 is one where step 2 halves once, and step 1 asks for a Legendre power of 1. -/
theorem sqrtClosedFormAndNoRoot : Obligations.SqrtClosedFormAndNoRoot := by
  intro s rd rs1 sel
  refine ⟨mkWord_mselBits _ _ _ _ sel, fun hbad => ?_, exec_sqrt_none, fun hp hmod hx => ?_⟩
  · rw [exec, execSqrt, selectedModulus_eq_modulus, if_pos hbad]
    rfl
  · rw [← powmod_eq]
    exact exec_sqrt_of_ok hp (by omega) (sqrtMod_closedForm hp hmod ((legendre_eq_one_iff hp _).mpr hx))

/-- Settles O37: Tonelli-Shanks ends with a root, by induction on its passes. -/
theorem sqrtIsRootForOddPrimes : Obligations.SqrtIsRootForOddPrimes := by
  intro s rd rs1 sel hprime hne
  have : Fact (modulus s sel).Prime := ⟨hprime⟩
  have hp : 3 ≤ modulus s sel := hprime.two_le.lt_of_ne' hne
  have hodd : modulus s sel % 2 = 1 := hprime.mod_two_eq_one_iff_ne_two.mpr hne
  refine ⟨fun hx => ?_, exec_sqrt_none hp hodd⟩
  obtain ⟨v, hv, hlt, hroot⟩ := sqrtMod_of_prime hp ((legendre_eq_one_iff hp (scalar s rs1)).mpr hx)
  refine ⟨v, hlt, ?_, exec_sqrt_of_ok hp hodd hv⟩
  rwa [← Nat.cast_mul, ZMod.natCast_eq_natCast_iff'] at hroot

end Sys2Proof.Machine
end

section
/-! SUPPORT. `contains`, `canonical` and `add` modulo any `p` (42_curve.md R101 to R104), followed in `ZMod p`. -/

namespace Sys2Proof.Machine

open Sys2Proof.Claims

variable {c : Curve} {P Q R : Point} {lam : Nat}

/-! ## Residues -/

theorem zmod_euclidMod {m : Nat} (hm : 0 < m) (x : Int) : (euclidMod x m : ZMod m) = x := by
  rw [← ZMod.intCast_mod x m, ← natCast_euclidMod hm, Int.cast_natCast]

/-- `invmod` answers an inverse of a unit, and faults on every other residue (40_field_arithmetic.md R78). -/
theorem invmod_zmod_cases {m : Nat} (hm : 2 ≤ m) (v : Int) :
    (∃ u, invmod v m = .ok u ∧ (v : ZMod m) * u = 1) ∨ (invmod v m = .error .notInvertible ∧ ¬ IsUnit (v : ZMod m)) := by
  obtain ⟨hgcd, -⟩ | ⟨hgcd, herr⟩ := invmod_cases v m
  · obtain ⟨u, hu, -, -, hinv⟩ := invmod_ok hm hgcd
    exact .inl ⟨u, hu, by exact_mod_cast (ZMod.intCast_eq_intCast_iff _ _ m).mpr hinv⟩
  · rw [← zmod_euclidMod (by omega) v, ZMod.isUnit_iff_coprime]
    exact .inr ⟨herr, hgcd⟩

theorem eq_of_natCast_eq {p a b : Nat} (ha : a < p) (hb : b < p) (h : (a : ZMod p) = b) : a = b :=
  ((ZMod.natCast_eq_natCast_iff a b p).mp h).eq_of_lt_of_lt ha hb

theorem add_mod_eq_zero_iff {p a b : Nat} : (a + b) % p = 0 ↔ (a : ZMod p) = -b := by
  rw [← Nat.dvd_iff_mod_eq_zero, ← ZMod.natCast_eq_zero_iff, Nat.cast_add, eq_neg_iff_add_eq_zero]

/-! ## The checks -/

theorem canonical_iff : c.canonical P = true ↔ inRange c P := by simp [Curve.canonical]

theorem contains_iff : c.contains P = true ↔ satisfies c P := by simp [Curve.contains, satisfies, rhsAt]

theorem onCurve_infinity : onCurve c .infinity := ⟨.inl rfl, .inl rfl⟩

/-- Two points of the curve pass the checks of `add`. -/
theorem checks_of_onCurve (hP : onCurve c P) (hQ : onCurve c Q) :
    (c.canonical P = true ∧ c.canonical Q = true) ∧ (c.contains P = true ∧ c.contains Q = true) :=
  ⟨⟨canonical_iff.mpr hP.1, canonical_iff.mpr hQ.1⟩, ⟨contains_iff.mpr hP.2, contains_iff.mpr hQ.2⟩⟩

/-- An affine point of the curve, its equation in `ZMod p`. -/
structure AffineOn (c : Curve) (P : Point) : Prop where
  inf : P.inf = false
  x_lt : P.x < c.p
  y_lt : P.y < c.p
  equation : (P.y * P.y : ZMod c.p) = P.x * P.x * P.x + c.a * P.x + c.b

theorem affineOn_iff : AffineOn c P ↔ P.inf = false ∧ onCurve c P := by
  have hcast := ZMod.natCast_eq_natCast_iff' (P.y * P.y) (P.x * P.x * P.x + c.a * P.x + c.b) c.p
  push_cast at hcast
  constructor
  · intro h
    exact ⟨h.inf, .inr ⟨h.x_lt, h.y_lt⟩, .inr (hcast.mp h.equation)⟩
  · rintro ⟨hi, hr, hs⟩
    have hne : ¬ P.inf = true := by simp [hi]
    obtain ⟨hx, hy⟩ := hr.resolve_left hne
    exact ⟨hi, hx, hy, hcast.mpr (hs.resolve_left hne)⟩

theorem AffineOn.onCurve (h : AffineOn c P) : onCurve c P := (affineOn_iff.mp h).2

theorem AffineOn.pos (h : AffineOn c P) : 0 < c.p := Nat.zero_lt_of_lt h.x_lt

theorem onCurve_cases (h : onCurve c P) : P.inf = true ∨ AffineOn c P := by
  cases hi : P.inf with
  | true => exact .inl rfl
  | false => exact .inr (affineOn_iff.mpr ⟨hi, h⟩)

/-! ## The slope -/

/-- `lam` is the slope of the tangent at the one point, or of a chord whose abscissas differ by a unit. -/
def LineSlope (c : Curve) (P Q : Point) (lam : Nat) : Prop :=
  (P.x = Q.x ∧ P.y = Q.y ∧ (lam * (2 * P.y) : ZMod c.p) = 3 * P.x * P.x + c.a) ∨
  (P.x ≠ Q.x ∧ IsUnit (Q.x - P.x : ZMod c.p) ∧ (lam * (Q.x - P.x) : ZMod c.p) = Q.y - P.y)

/-- Everything `slope` can answer: the slope, or a fault for want of the inverse of its denominator. -/
theorem slope_cases (hp : 2 ≤ c.p) :
    (∃ lam, c.slope P Q = .ok lam ∧ lam < c.p ∧ LineSlope c P Q lam) ∨
    (c.slope P Q = .error .notInvertible ∧
      ((P.x = Q.x ∧ P.y = Q.y ∧ ¬ IsUnit (P.y + Q.y : ZMod c.p)) ∨
        (¬(P.x = Q.x ∧ P.y = Q.y) ∧ ¬ IsUnit (Q.x - P.x : ZMod c.p)))) := by
  have hpos : 0 < c.p := by omega
  unfold Curve.slope
  split
  · next hsame =>
    obtain ⟨u, hu, hinv⟩ | ⟨herr, hunit⟩ := invmod_zmod_cases hp ((2 * P.y : Nat) : Int)
    · rw [hu]
      refine .inl ⟨_, rfl, Nat.mod_lt _ hpos, .inl ⟨hsame.1, hsame.2, ?_⟩⟩
      push_cast [ZMod.natCast_mod] at hinv ⊢
      linear_combination (3 * P.x * P.x + c.a : ZMod c.p) * hinv
    · rw [herr]
      push_cast [two_mul] at hunit
      exact .inr ⟨rfl, .inl ⟨hsame.1, hsame.2, by rwa [← hsame.2]⟩⟩
  · next hne =>
    obtain ⟨u, hu, hinv⟩ | ⟨herr, hunit⟩ := invmod_zmod_cases hp ((Q.x : Int) - (P.x : Int))
    · rw [hu]
      push_cast at hinv
      have hx : P.x ≠ Q.x := by
        intro hx
        have : Fact (1 < c.p) := ⟨hp⟩
        rw [hx, sub_self, zero_mul] at hinv
        exact zero_ne_one hinv
      refine .inl ⟨_, rfl, euclidMod_lt hpos _, .inr ⟨hx, .of_mul_eq_one _ hinv, ?_⟩⟩
      rw [zmod_euclidMod hpos]
      push_cast
      linear_combination (Q.y - P.y : ZMod c.p) * hinv
    · rw [herr]
      push_cast at hunit
      exact .inr ⟨rfl, .inr ⟨hne, hunit⟩⟩

theorem LineSlope.isSlope (h : LineSlope c P Q lam) (hlt : lam < c.p) : isSlope c P Q lam := by
  refine ⟨hlt, fun hx => ?_, fun hx => ?_⟩
  · obtain ⟨-, -, hlam⟩ | ⟨hne, -⟩ := h
    · rw [← ZMod.natCast_eq_natCast_iff']
      exact_mod_cast hlam
    · exact absurd hx hne
  · obtain ⟨heq, -⟩ | ⟨-, -, hlam⟩ := h
    · exact absurd heq hx
    · rw [← Int.dvd_iff_emod_eq_zero, ← ZMod.intCast_zmod_eq_zero_iff_dvd]
      push_cast
      exact sub_eq_zero.mpr hlam

/-- Modulo a prime the slope has its inverse, unless the points are opposite (42_curve.md R104 note d). -/
theorem isUnit_denominator (hprime : c.p.Prime) (hP : AffineOn c P) (hQ : AffineOn c Q)
    (hv : ¬(P.x = Q.x ∧ (P.y + Q.y) % c.p = 0)) :
    (P.x = Q.x → P.y = Q.y → IsUnit (P.y + Q.y : ZMod c.p)) ∧
      (¬(P.x = Q.x ∧ P.y = Q.y) → IsUnit (Q.x - P.x : ZMod c.p)) := by
  have : Fact c.p.Prime := ⟨hprime⟩
  simp only [isUnit_iff_ne_zero, Ne, ← eq_neg_iff_add_eq_zero, ← add_mod_eq_zero_iff]
  refine ⟨fun hx _ hy => hv ⟨hx, hy⟩, fun hne hx => ?_⟩
  have hx : P.x = Q.x := (eq_of_natCast_eq hQ.x_lt hP.x_lt (sub_eq_zero.mp hx)).symm
  have hsquare : (P.y * P.y : ZMod c.p) = Q.y * Q.y := by rw [hP.equation, hQ.equation, hx]
  obtain hy | hy := mul_self_eq_mul_self_iff.mp hsquare
  · exact hne ⟨hx, eq_of_natCast_eq hP.y_lt hQ.y_lt hy⟩
  · exact hv ⟨hx, add_mod_eq_zero_iff.mpr hy⟩

/-! ## The third point -/

theorem thirdPoint_lt (hp : 0 < c.p) : (thirdPoint c P Q lam).x < c.p ∧ (thirdPoint c P Q lam).y < c.p :=
  ⟨euclidMod_lt hp _, euclidMod_lt hp _⟩

theorem thirdPoint_x (P Q : Point) (lam : Nat) (hp : 0 < c.p) : ((thirdPoint c P Q lam).x : ZMod c.p) = lam * lam - P.x - Q.x := by
  have h := zmod_euclidMod hp ((lam : Int) * lam - P.x - Q.x)
  push_cast at h
  exact h

theorem thirdPoint_y (P Q : Point) (lam : Nat) (hp : 0 < c.p) :
    ((thirdPoint c P Q lam).y : ZMod c.p) = lam * (P.x - (thirdPoint c P Q lam).x) - P.y := by
  have h := zmod_euclidMod hp ((lam : Int) * (P.x - (thirdPoint c P Q lam).x) - P.y)
  push_cast at h
  exact h

/-- The third point is on the curve: the cubic that the line cuts out has the two abscissas as roots, so the third root is the
rest of their sum. -/
theorem affineOn_thirdPoint (hP : AffineOn c P) (hQ : AffineOn c Q) (h : LineSlope c P Q lam) :
    AffineOn c (thirdPoint c P Q lam) := by
  refine ⟨rfl, (thirdPoint_lt hP.pos).1, (thirdPoint_lt hP.pos).2, ?_⟩
  rw [thirdPoint_y P Q lam hP.pos, thirdPoint_x P Q lam hP.pos]
  obtain ⟨hx, -, hlam⟩ | ⟨-, hunit, hlam⟩ := h
  · rw [← hx]
    linear_combination hP.equation + (lam * lam - 3 * P.x : ZMod c.p) * hlam
  · refine hunit.mul_left_cancel ?_
    have hy : (Q.y : ZMod c.p) = lam * (Q.x - P.x) + P.y := by rw [hlam, sub_add_cancel]
    have hQe := hQ.equation
    rw [hy] at hQe
    linear_combination (Q.x - (lam * lam - P.x - Q.x) : ZMod c.p) * hP.equation + (lam * lam - P.x - Q.x - P.x : ZMod c.p) * hQe

/-! ## The cases of `add` on points of the curve -/

section
variable (hP : onCurve c P) (hQ : onCurve c Q)
include hP hQ

theorem add_of_left_inf (hi : P.inf = true) : c.add P Q = .ok Q := by
  obtain ⟨hr, hc⟩ := checks_of_onCurve hP hQ
  exact add_infinity_left hr hc hi

theorem add_of_right_inf (hiP : P.inf = false) (hiQ : Q.inf = true) : c.add P Q = .ok P := by
  obtain ⟨hr, hc⟩ := checks_of_onCurve hP hQ
  exact add_infinity_right hr hc (by simp [hiP]) hiQ

end

section
variable (hP : AffineOn c P) (hQ : AffineOn c Q)
include hP hQ

/-- Two affine points reach the third case of `add`. -/
theorem add_of_affine : c.add P Q =
    if P.x = Q.x ∧ (P.y + Q.y) % c.p = 0 then .ok .infinity
    else (c.slope P Q).map fun lam => thirdPoint c P Q lam := by
  obtain ⟨hr, hc⟩ := checks_of_onCurve hP.onCurve hQ.onCurve
  rw [Curve.add, if_neg (not_not.mpr hr), if_neg (not_not.mpr hc), if_neg (by simp [hP.inf]), if_neg (by simp [hQ.inf])]
  cases c.slope P Q <;> rfl

theorem add_of_opposite (hv : P.x = Q.x ∧ (P.y + Q.y) % c.p = 0) : c.add P Q = .ok .infinity := by
  rw [add_of_affine hP hQ, if_pos hv]

/-- Two affine points that are not opposite: the third point, or no inverse on a modulus that is no prime. -/
theorem add_of_line (hv : ¬(P.x = Q.x ∧ (P.y + Q.y) % c.p = 0)) :
    (∃ lam, lam < c.p ∧ LineSlope c P Q lam ∧ c.add P Q = .ok (thirdPoint c P Q lam)) ∨
    (c.add P Q = .error .notInvertible ∧ ¬ c.p.Prime) := by
  have hp : 2 ≤ c.p := by
    have hx := hP.x_lt
    have hx' := hQ.x_lt
    by_contra hlt
    exact hv ⟨by omega, by rw [show c.p = 1 by omega, Nat.mod_one]⟩
  rw [add_of_affine hP hQ, if_neg hv]
  obtain ⟨lam, hlam, hlt, hline⟩ | ⟨herr, hwhy⟩ := slope_cases (P := P) (Q := Q) hp
  · exact .inl ⟨lam, hlt, hline, by rw [hlam]; rfl⟩
  · refine .inr ⟨by rw [herr]; rfl, fun hprime => ?_⟩
    obtain ⟨htangent, hchord⟩ := isUnit_denominator hprime hP hQ hv
    obtain ⟨hx, hy, hunit⟩ | ⟨hne, hunit⟩ := hwhy
    · exact hunit (htangent hx hy)
    · exact hunit (hchord hne)

theorem exists_line_of_prime (hprime : c.p.Prime) (hv : ¬(P.x = Q.x ∧ (P.y + Q.y) % c.p = 0)) :
    ∃ lam, lam < c.p ∧ LineSlope c P Q lam ∧ c.add P Q = .ok (thirdPoint c P Q lam) :=
  (add_of_line hP hQ hv).resolve_right fun hno => hno.2 hprime

end

/-- A point of the curve, or `F_NOT_INVERTIBLE` on a modulus that is no prime. -/
def CurveAnswer (c : Curve) (r : Except FaultCause Point) : Prop :=
  (∃ R, r = .ok R ∧ onCurve c R) ∨ (r = .error .notInvertible ∧ ¬ c.p.Prime)

theorem curveAnswer_ok (h : onCurve c R) : CurveAnswer c (.ok R) := .inl ⟨R, rfl, h⟩

theorem CurveAnswer.exists_of_prime {r : Except FaultCause Point} (h : CurveAnswer c r) (hprime : c.p.Prime) :
    ∃ R, r = .ok R ∧ onCurve c R :=
  h.resolve_right fun hno => hno.2 hprime

/-- The sum of two points of the curve, whatever the modulus (42_curve.md R104 note d). -/
theorem curveAnswer_add (hP : onCurve c P) (hQ : onCurve c Q) : CurveAnswer c (c.add P Q) := by
  obtain hiP | hP' := onCurve_cases hP
  · rw [add_of_left_inf hP hQ hiP]
    exact curveAnswer_ok hQ
  obtain hiQ | hQ' := onCurve_cases hQ
  · rw [add_of_right_inf hP hQ hP'.inf hiQ]
    exact curveAnswer_ok hP
  by_cases hv : P.x = Q.x ∧ (P.y + Q.y) % c.p = 0
  · rw [add_of_opposite hP' hQ' hv]
    exact curveAnswer_ok onCurve_infinity
  · obtain ⟨lam, -, hline, h⟩ | hno := add_of_line hP' hQ' hv
    · rw [h]
      exact curveAnswer_ok (affineOn_thirdPoint hP' hQ' hline).onCurve
    · exact .inr hno

end Sys2Proof.Machine
end

section
/-! SUPPORT. `smul` pass by pass (42_curve.md R105), and the groups that `add` computes in (42_curve.md R114). -/

namespace Sys2Proof.Machine

open Sys2Proof.Claims

variable {c : Curve} {P R : Point}

/-! ## One pass of `smul` -/

/-- A pass accumulates, doubles and goes on with half the scalar. -/
theorem smulLoop_succ {rem : Nat} (fuel : Nat) (result base : Point) (hrem : rem ≠ 0) :
    c.smulLoop (fuel + 1) result base rem =
      (if rem % 2 = 1 then c.add result base else .ok result) >>= fun acc =>
        c.add base base >>= fun dbl => c.smulLoop fuel acc dbl (rem / 2) := by
  rw [Curve.smulLoop, if_neg hrem]
  cases (if rem % 2 = 1 then c.add result base else .ok result) with
  | error e => rfl
  | ok acc => cases c.add base base <;> rfl

theorem smulLoop_rem_zero (fuel : Nat) (result base : Point) : c.smulLoop fuel result base 0 = .ok result := by
  cases fuel <;> rfl

/-- The first pass looks at the point, whatever the scalar's low bit (42_curve.md R105 note c). -/
theorem smul_error {e : FaultCause} {k : Nat} (hk : 1 ≤ k) (hinf : c.add .infinity P = .error e)
    (hself : c.add P P = .error e) : c.smul P k = .error e := by
  rw [Curve.smul, smulLoop_succ _ _ _ (by omega), hinf, hself]
  split <;> rfl

/-! ## On points of the curve -/

theorem CurveAnswer.bind {r : Except FaultCause Point} {f : Point → Except FaultCause Point} (hr : CurveAnswer c r)
    (hf : ∀ R, onCurve c R → CurveAnswer c (f R)) : CurveAnswer c (r >>= f) := by
  obtain ⟨R, rfl, hR⟩ | ⟨rfl, hno⟩ := hr
  · exact hf R hR
  · exact .inr ⟨rfl, hno⟩

theorem curveAnswer_smulLoop (fuel rem : Nat) (hR : onCurve c R) (hP : onCurve c P) :
    CurveAnswer c (c.smulLoop fuel R P rem) := by
  induction fuel generalizing R P rem with
  | zero => exact curveAnswer_ok hR
  | succ fuel ih =>
    by_cases hrem : rem = 0
    · rw [hrem, smulLoop_rem_zero]
      exact curveAnswer_ok hR
    have hacc : CurveAnswer c (if rem % 2 = 1 then c.add R P else .ok R) := by
      split
      · exact curveAnswer_add hR hP
      · exact curveAnswer_ok hR
    rw [smulLoop_succ _ _ _ hrem]
    exact hacc.bind fun _ hR' => (curveAnswer_add hP hP).bind fun _ hP' => ih _ hR' hP'

/-- A multiple of a point of the curve, whatever the modulus. -/
theorem curveAnswer_smul (k : Nat) (hP : onCurve c P) : CurveAnswer c (c.smul P k) :=
  curveAnswer_smulLoop _ k onCurve_infinity hP

/-! ## In a group -/

/-- The map writes the elements of a group as points, and `add` of two of them answers their sum. -/
structure Represents {G : Type} [AddCommGroup G] (c : Curve) (rep : G → Point) : Prop where
  zero : rep 0 = .infinity
  add : ∀ g h, c.add (rep g) (rep h) = .ok (rep (g + h))

section
variable {G : Type} [AddCommGroup G] {rep : G → Point}

theorem Represents.smulLoop (hrep : Represents c rep) (fuel rem : Nat) (r g : G) (hfuel : rem < 2 ^ fuel) :
    c.smulLoop fuel (rep r) (rep g) rem = .ok (rep (r + rem • g)) := by
  induction fuel generalizing rem r g with
  | zero =>
    obtain rfl : rem = 0 := by omega
    rw [smulLoop_rem_zero, zero_nsmul, add_zero]
  | succ fuel ih =>
    by_cases hrem : rem = 0
    · rw [hrem, smulLoop_rem_zero, zero_nsmul, add_zero]
    have hacc : (if rem % 2 = 1 then c.add (rep r) (rep g) else .ok (rep r)) = .ok (rep (r + (rem % 2) • g)) := by
      obtain heven | hodd := Nat.mod_two_eq_zero_or_one rem
      · simp [heven]
      · simp [hodd, hrep.add]
    have hsum : r + (rem % 2) • g + (rem / 2) • (g + g) = r + rem • g := by
      rw [← two_nsmul, ← mul_nsmul, add_assoc, ← add_nsmul, Nat.mod_add_div]
    rw [smulLoop_succ _ _ _ hrem, hacc, hrep.add]
    exact (ih _ _ _ (by omega)).trans (by rw [hsum])

/-- `smul` computes the multiples of the group. -/
theorem Represents.smul (hrep : Represents c rep) (g : G) (k : Nat) : c.smul (rep g) k = .ok (rep (k • g)) := by
  rw [Curve.smul, ← hrep.zero, hrep.smulLoop _ _ _ _ Nat.lt_log2_self, zero_add]

end

theorem SameAnswer.exists_ok {r : Except FaultCause Point} (h : SameAnswer r (.ok R)) :
    ∃ R', r = .ok R' ∧ SamePoint R' R := by
  obtain ⟨e, -, he⟩ | ⟨P, P', hr, hP', hsame⟩ := h
  · cases he
  · cases hP'
    exact ⟨P, hr, hsame⟩

/-! ## The nonsingular points modulo a prime -/

/-- The curve over `ZMod p` in Mathlib's form. It may be singular. -/
def weierstrass (c : Curve) : WeierstrassCurve.Affine (ZMod c.p) := { a₁ := 0, a₂ := 0, a₃ := 0, a₄ := c.a, a₆ := c.b }

/-- A nonsingular point, its coordinates canonical. -/
def ofNonsingular (c : Curve) : (weierstrass c).Point → Point
  | .zero => .infinity
  | .some x y _ => { x := x.val, y := y.val, inf := false }

theorem weierstrass_equation (x y : ZMod c.p) : (weierstrass c).Equation x y ↔ y * y = x * x * x + c.a * x + c.b := by
  rw [WeierstrassCurve.Affine.equation_iff]
  simp only [weierstrass, zero_mul, add_zero]
  ring_nf

theorem weierstrass_nonsingular (x y : ZMod c.p) : (weierstrass c).Nonsingular x y ↔
    y * y = x * x * x + c.a * x + c.b ∧ (3 * x * x + c.a ≠ 0 ∨ y + y ≠ 0) := by
  rw [WeierstrassCurve.Affine.nonsingular_iff', weierstrass_equation, ← neg_ne_zero]
  simp only [weierstrass, zero_mul, mul_zero, add_zero, zero_sub, neg_neg]
  ring_nf

@[simp] theorem weierstrass_negY (x y : ZMod c.p) : (weierstrass c).negY x y = -y := by
  simp [WeierstrassCurve.Affine.negY, weierstrass]

theorem weierstrass_addX (x₁ x₂ l : ZMod c.p) : (weierstrass c).addX x₁ x₂ l = l * l - x₁ - x₂ := by
  simp [WeierstrassCurve.Affine.addX, weierstrass, sq]

theorem weierstrass_addY (x₁ x₂ y₁ l : ZMod c.p) :
    (weierstrass c).addY x₁ x₂ y₁ l = l * (x₁ - (weierstrass c).addX x₁ x₂ l) - y₁ := by
  rw [WeierstrassCurve.Affine.addY, weierstrass_negY, WeierstrassCurve.Affine.negAddY]
  ring

section
variable [Fact c.p.Prime]

theorem affineOn_ofNonsingular {x y : ZMod c.p} (h : (weierstrass c).Nonsingular x y) :
    AffineOn c (ofNonsingular c (.some x y h)) := by
  refine ⟨rfl, ZMod.val_lt x, ZMod.val_lt y, ?_⟩
  simp only [ofNonsingular, ZMod.natCast_zmod_val]
  exact ((weierstrass_nonsingular x y).mp h).1

theorem onCurve_ofNonsingular (g : (weierstrass c).Point) : onCurve c (ofNonsingular c g) := by
  cases g with
  | zero => exact onCurve_infinity
  | some x y h => exact (affineOn_ofNonsingular h).onCurve

theorem ofNonsingular_eq {x y : ZMod c.p} (h : (weierstrass c).Nonsingular x y) (hP : AffineOn c P) (hx : (P.x : ZMod c.p) = x)
    (hy : (P.y : ZMod c.p) = y) : ofNonsingular c (.some x y h) = P := by
  subst hx hy
  obtain ⟨px, py, inf⟩ := P
  obtain rfl : inf = false := hP.inf
  simp [ofNonsingular, ZMod.val_natCast_of_lt hP.x_lt, ZMod.val_natCast_of_lt hP.y_lt]

/-- The slope of `add` is Mathlib's. -/
theorem LineSlope.eq_slope {P Q : Point} {lam : Nat} (h : LineSlope c P Q lam) (hP : AffineOn c P) (hQ : AffineOn c Q)
    (hv : ¬((P.x : ZMod c.p) = Q.x ∧ (P.y : ZMod c.p) = -Q.y)) :
    (lam : ZMod c.p) = (weierstrass c).slope P.x Q.x P.y Q.y := by
  obtain ⟨hx, hy, hlam⟩ | ⟨hx, hunit, hlam⟩ := h
  · have hne : (P.y : ZMod c.p) ≠ (weierstrass c).negY Q.x Q.y := by
      rw [weierstrass_negY]
      exact fun hneg => hv ⟨by rw [hx], hneg⟩
    have hden : (P.y - -P.y : ZMod c.p) ≠ 0 := by
      rw [weierstrass_negY, ← hy] at hne
      exact sub_ne_zero.mpr hne
    rw [WeierstrassCurve.Affine.slope_of_Y_ne (by rw [hx]) hne, weierstrass_negY, eq_div_iff hden]
    simp only [weierstrass]
    linear_combination hlam
  · have hne : (P.x : ZMod c.p) ≠ Q.x := fun h => hx (eq_of_natCast_eq hP.x_lt hQ.x_lt h)
    rw [WeierstrassCurve.Affine.slope_of_X_ne hne, eq_div_iff (sub_ne_zero.mpr hne)]
    linear_combination -hlam

/-- `add` of two nonsingular affine points is Mathlib's sum. -/
theorem add_ofNonsingular_some {x₁ y₁ x₂ y₂ : ZMod c.p} (h₁ : (weierstrass c).Nonsingular x₁ y₁)
    (h₂ : (weierstrass c).Nonsingular x₂ y₂) :
    c.add (ofNonsingular c (.some x₁ y₁ h₁)) (ofNonsingular c (.some x₂ y₂ h₂)) =
      .ok (ofNonsingular c (.some x₁ y₁ h₁ + .some x₂ y₂ h₂)) := by
  have hP := affineOn_ofNonsingular h₁
  have hQ := affineOn_ofNonsingular h₂
  have hopposite : (x₁.val = x₂.val ∧ (y₁.val + y₂.val) % c.p = 0) ↔ x₁ = x₂ ∧ y₁ = (weierstrass c).negY x₂ y₂ := by
    rw [(ZMod.val_injective c.p).eq_iff, add_mod_eq_zero_iff, ZMod.natCast_zmod_val, ZMod.natCast_zmod_val, weierstrass_negY]
  by_cases hv : x₁.val = x₂.val ∧ (y₁.val + y₂.val) % c.p = 0
  · obtain ⟨hx, hy⟩ := hopposite.mp hv
    rw [add_of_opposite hP hQ hv, WeierstrassCurve.Affine.Point.add_of_Y_eq hx hy]
    rfl
  · obtain ⟨lam, -, hline, hadd⟩ := exists_line_of_prime hP hQ Fact.out hv
    have hv' := hopposite.not.mp hv
    have hslope : (lam : ZMod c.p) = (weierstrass c).slope x₁ x₂ y₁ y₂ := by
      have h := hline.eq_slope hP hQ
      simp only [ofNonsingular, ZMod.natCast_zmod_val] at h
      exact h (by rwa [weierstrass_negY] at hv')
    have hx := thirdPoint_x (ofNonsingular c (.some x₁ y₁ h₁)) (ofNonsingular c (.some x₂ y₂ h₂)) lam hP.pos
    have hy := thirdPoint_y (ofNonsingular c (.some x₁ y₁ h₁)) (ofNonsingular c (.some x₂ y₂ h₂)) lam hP.pos
    rw [hx] at hy
    simp only [ofNonsingular, ZMod.natCast_zmod_val, hslope] at hx hy
    rw [hadd, WeierstrassCurve.Affine.Point.add_some hv']
    refine congrArg Except.ok (ofNonsingular_eq _ (affineOn_thirdPoint hP hQ hline) ?_ ?_).symm
    · rw [weierstrass_addX]
      exact hx
    · rw [weierstrass_addY, weierstrass_addX]
      exact hy

/-- Modulo a prime `add` is the group law of the nonsingular points. -/
theorem represents_ofNonsingular : Represents c (ofNonsingular c) := by
  refine ⟨rfl, fun g h => ?_⟩
  match g, h with
  | .zero, h =>
    rw [← WeierstrassCurve.Affine.Point.zero_def, zero_add]
    exact add_of_left_inf onCurve_infinity (onCurve_ofNonsingular h) rfl
  | .some x y h, .zero =>
    rw [← WeierstrassCurve.Affine.Point.zero_def, add_zero]
    exact add_of_right_inf (onCurve_ofNonsingular _) onCurve_infinity rfl rfl
  | .some _ _ h₁, .some _ _ h₂ => exact add_ofNonsingular_some h₁ h₂

end

/-! ## Points of order two, among them the singular ones -/

/-- Infinity and one more point. -/
def orderTwoRep (P : Point) (k : ZMod 2) : Point := if k = 0 then .infinity else P

/-- A point that doubles to infinity makes a group with infinity. -/
theorem represents_orderTwoRep (hP : AffineOn c P) (hy : (P.y + P.y) % c.p = 0) : Represents c (orderTwoRep P) := by
  refine ⟨rfl, fun g h => ?_⟩
  fin_cases g <;> fin_cases h
  · exact add_of_left_inf onCurve_infinity onCurve_infinity rfl
  · exact add_of_left_inf onCurve_infinity hP.onCurve rfl
  · exact add_of_right_inf hP.onCurve onCurve_infinity hP.inf rfl
  · exact add_of_opposite hP hP ⟨rfl, hy⟩

/-- Modulo a prime every point of the curve lies in a group that `add` computes in: a point that does not double to infinity is
nonsingular. -/
theorem exists_represents (hprime : c.p.Prime) (hP : onCurve c P) :
    ∃ (G : Type) (_ : AddCommGroup G) (rep : G → Point), Represents c rep ∧ ∃ g, SamePoint P (rep g) := by
  have : Fact c.p.Prime := ⟨hprime⟩
  obtain hi | hP := onCurve_cases hP
  · exact ⟨_, _, ofNonsingular c, represents_ofNonsingular, 0, .inr ⟨hi, rfl⟩⟩
  by_cases hy : (P.y + P.y) % c.p = 0
  · exact ⟨_, _, orderTwoRep P, represents_orderTwoRep hP hy, 1, .inl rfl⟩
  · have hns : (weierstrass c).Nonsingular (P.x : ZMod c.p) P.y := by
      refine (weierstrass_nonsingular _ _).mpr ⟨hP.equation, .inr fun hzero => hy ?_⟩
      rwa [add_mod_eq_zero_iff, eq_neg_iff_add_eq_zero]
    exact ⟨_, _, ofNonsingular c, represents_ofNonsingular, .some _ _ hns, .inl (ofNonsingular_eq hns hP rfl rfl).symm⟩

/-! ## The obligation -/

/-- Settles O49: in a group of which the point is an element, both sides are `(k + l) • g`. -/
theorem smulAdditiveInScalar : Obligations.SmulAdditiveInScalar := by
  intro c P k l hprime _ hP
  obtain ⟨G, _, rep, hrep, g, hg⟩ := exists_represents hprime hP
  have hsmul : ∀ m, ∃ R, c.smul P m = .ok R ∧ SamePoint R (rep (m • g)) := by
    intro m
    have hsame := smul_same (c := c) m hg
    rw [hrep.smul] at hsame
    exact hsame.exists_ok
  obtain ⟨A, hA, hAg⟩ := hsmul k
  obtain ⟨B, hB, hBg⟩ := hsmul l
  obtain ⟨C, hC, hCg⟩ := hsmul (k + l)
  have hsum := add_same (c := c) hAg hBg
  rw [hrep.add, ← add_nsmul] at hsum
  obtain ⟨D, hD, hDg⟩ := hsum.exists_ok
  exact ⟨A, B, C, D, hA, hB, hC, hD, hCg.regOfPoint_eq.trans hDg.regOfPoint_eq.symm⟩

end Sys2Proof.Machine
end

section
/-! SUPPORT. The curve commands (42_curve.md R100, R107 to R113). -/

namespace Sys2Proof.Machine

open Sys2Proof.Claims

variable {s : State} {c : Curve} {P : Point} {pd a b : PReg}

/-! ## The statements' names for the operations of the model -/

theorem pointBits_eq_pointField (i : PReg) : pointBits i = pointField i := by
  revert i
  decide

theorem imageOf_of_inf (h : P.inf = true) : imageOf P = infinityImage := if_pos h

/-! ## The commands on a constructed curve -/

section
variable (hok : s.curveOk = true)
include hok

theorem exec_padd : exec (.padd pd a b) s = finishPoint s pd ((curveOf s.params).add (point s a) (point s b)) := by
  rw [exec, execPadd, withCurve_on hok]

theorem exec_smul (rs2 : SReg) :
    exec (.smul pd a rs2) s = finishPoint s pd ((curveOf s.params).smul (point s a) (scalar s rs2)) := by
  rw [exec, execSmul, withCurve_on hok]

/-- PREC with a canonical abscissa, where `sqrt_mod` gives a root or none (42_curve.md R106, R109). -/
theorem exec_prec_of_ok {rs1 : SReg} {o : Option Nat} (hx : scalar s rs1 < (curveOf s.params).p)
    (h : sqrtMod (rhsAt (curveOf s.params) (scalar s rs1)) (curveOf s.params).p = .ok o) :
    exec (.prec pd rs1) s =
      .next (o.elim { s with t := false } fun y => { withPoint s pd (affine (scalar s rs1) y) with t := true }) := by
  have hrecover : (curveOf s.params).recover (scalar s rs1) =
      .ok (o.map fun y => { x := scalar s rs1, y := y, inf := false }) := by
    rw [Curve.recover, ← rhsAt, h]
    cases o <;> rfl
  rw [exec, execPrec, withCurve_on hok, if_neg (by omega), hrecover]
  cases o <;> rfl

end

/-! ## CINIT -/

/-- CINIT accepts a curve that passes each of its checks (42_curve.md R107). -/
theorem construct_eq (hp : 3 ≤ c.p) (hodd : c.p % 2 = 1) (hn : 2 ≤ c.n) (hg : onCurve c c.g) :
    c.construct = c.smul c.g c.n >>= fun V => if V.inf = true then .ok () else .error .curveInit := by
  rw [Curve.construct, if_neg (by omega), if_neg (by omega), if_neg (not_not.mpr (canonical_iff.mpr hg.1)),
    if_neg (not_not.mpr (contains_iff.mpr hg.2))]
  cases c.smul c.g c.n <;> rfl

theorem onCurve_of_construct (h : c.construct = .ok ()) : onCurve c c.g := by
  unfold Curve.construct at h
  split at h
  · cases h
  split at h
  · cases h
  split at h
  · cases h
  next hr =>
    split at h
    · cases h
    next hs => exact ⟨canonical_iff.mp (not_not.mp hr), contains_iff.mp (not_not.mp hs)⟩

theorem exec_cinit_error {e : FaultCause} (h : (curveOf s.params).construct = .error e) :
    exec .cinit s = .next (takeFault e s) := by
  rw [exec, execCinit, h]
  rfl

theorem exec_cinit_ok (h : (curveOf s.params).construct = .ok ()) : exec .cinit s = .next { s with curveOk := true } := by
  rw [exec, execCinit, h]
  rfl

/-! ## The obligations -/

/-- Settles O43: the cases of `add` on points of the curve; modulo a prime the slope exists. -/
theorem paddGroupLaw : Obligations.PaddGroupLaw := by
  intro s pd a b c P Q hc hP hQ hok hprime _ hPc hQc
  subst hc hP hQ
  refine ⟨fun hi => ?_, fun hiP hiQ => ?_, fun hiP hiQ hx hy => ?_, fun hiP hiQ hv => ?_⟩
  · rw [exec_padd hok, add_of_left_inf hPc hQc hi]
    rfl
  · rw [exec_padd hok, add_of_right_inf hPc hQc hiP hiQ]
    rfl
  · rw [exec_padd hok, add_of_opposite (affineOn_iff.mpr ⟨hiP, hPc⟩) (affineOn_iff.mpr ⟨hiQ, hQc⟩) ⟨hx, hy⟩]
    rfl
  · obtain ⟨lam, hlt, hline, hadd⟩ :=
      exists_line_of_prime (affineOn_iff.mpr ⟨hiP, hPc⟩) (affineOn_iff.mpr ⟨hiQ, hQc⟩) hprime hv
    exact ⟨lam, hline.isSlope hlt, by rw [exec_padd hok, hadd]; rfl⟩

/-- Settles O48: every pass of `smul` keeps both points on the curve, and modulo a prime no sum faults. -/
theorem smulCompletesOnCurve : Obligations.SmulCompletesOnCurve := by
  intro s pd a rs2 c hc hok hprime _ hP
  subst hc
  obtain ⟨V, hV, hVc⟩ := (curveAnswer_smul (scalar s rs2) hP).exists_of_prime hprime
  exact ⟨V, hV, hVc, by rw [exec_smul hok, hV]; rfl⟩

/-- Settles O39: the checks in their order, and `smul` of a point of the curve faults for want of an inverse alone. -/
theorem cinitChecksInOrder : Obligations.CinitChecksInOrder := by
  intro s c hc
  subst hc
  generalize hc : curveOf s.params = c
  refine ⟨rfl, fun hp => ?_, fun hp hodd hn => ?_, fun hp hodd hn hr => ?_, fun hp hodd hn hr hs => ?_,
    fun hp hodd hn hg => ⟨fun V hV hi => ?_, fun V hV hi => ?_, fun e he => ?_⟩, fun hconstructed hok => ?_⟩
  · refine exec_cinit_error (e := .modulus) ?_
    rw [hc, Curve.construct, if_pos hp]
  · refine exec_cinit_error (e := .modulus) ?_
    rw [hc, Curve.construct, if_neg (by omega), if_pos hn]
  · refine exec_cinit_error (e := .range) ?_
    rw [hc, Curve.construct, if_neg (by omega), if_neg (by omega), if_pos (canonical_iff.not.mpr hr)]
  · refine exec_cinit_error (e := .curveInit) ?_
    rw [hc, Curve.construct, if_neg (by omega), if_neg (by omega), if_neg (not_not.mpr (canonical_iff.mpr hr)),
      if_pos (contains_iff.not.mpr hs)]
  · refine exec_cinit_ok ?_
    rw [hc, construct_eq hp hodd hn hg, hV]
    exact if_pos hi
  · refine exec_cinit_error (e := .curveInit) ?_
    rw [hc, construct_eq hp hodd hn hg, hV]
    exact if_neg (by simp [hi])
  · obtain ⟨R, hR, -⟩ | ⟨hno, hprime⟩ := curveAnswer_smul c.n hg
    · cases he.symm.trans hR
    · refine ⟨hprime, exec_cinit_error (e := .notInvertible) ?_⟩
      rw [hc, construct_eq hp hodd hn hg, hno]
      rfl
  · have hsame : { s with curveOk := true } = s := by rw [← hok]
    rw [exec_cinit_ok (hconstructed hok), hsame]

/-- Settles O41: the root of `sqrt_mod` makes a point of the curve. -/
theorem precRecoversPoint : Obligations.PrecRecoversPoint := by
  intro s pd rs1 c hc hok
  subst hc
  generalize hc : curveOf s.params = c
  refine ⟨fun hx => ?_, fun hprime hne hx hres => ?_, fun hprime hne hx hres => ?_⟩
  · rw [exec, execPrec, withCurve_on hok, hc, if_pos hx]
    rfl
  · have : Fact c.p.Prime := ⟨hprime⟩
    have hp : 3 ≤ c.p := hprime.two_le.lt_of_ne' hne
    obtain ⟨y, hy, hlt, hroot⟩ := sqrtMod_of_prime hp ((legendre_eq_one_iff hp _).mpr hres)
    have hsquare : y * y % c.p = rhsAt c (scalar s rs1) := by
      rw [← Nat.cast_mul, ZMod.natCast_eq_natCast_iff'] at hroot
      rw [hroot, rhsAt, Nat.mod_mod]
    exact ⟨y, hlt, ⟨.inr ⟨hx, hlt⟩, .inr hsquare⟩, exec_prec_of_ok hok (hc ▸ hx) (hc ▸ hy)⟩
  · have hp : 3 ≤ c.p := hprime.two_le.lt_of_ne' hne
    have hnone := sqrtMod_none fun h => hres ((legendre_eq_one_iff hp _).mp h)
    exact exec_prec_of_ok hok (hc ▸ hx) (hc ▸ hnone)

/-- Settles O44: PDBL calls `add` with both operands the same. -/
theorem pdblIsPaddOfSamePoint : Obligations.PdblIsPaddOfSamePoint := by
  intro s pd a
  refine ⟨?_, rfl⟩
  rw [encode, pointBits_eq_pointField, pointBits_eq_pointField]
  rfl

theorem double_mod_ne_zero {p y : Nat} (hprime : p.Prime) (hne : p ≠ 2) (hpos : 0 < y) (hlt : y < p) : (y + y) % p ≠ 0 := by
  intro hdouble
  rw [← two_mul, ← Nat.dvd_iff_mod_eq_zero, hprime.dvd_mul, Nat.prime_dvd_prime_iff_eq hprime Nat.prime_two] at hdouble
  exact Nat.not_dvd_of_pos_of_lt hpos hlt (hdouble.resolve_left hne)

/-- Settles O45: a point with `y` not 0 does not double to infinity, `p` being odd. -/
theorem pdblTangentLaw : Obligations.PdblTangentLaw := by
  intro s pd a c P hc hP hok hprime hne hPc
  obtain ⟨hleft, -, hvertical, hline⟩ := paddGroupLaw s pd a a c P P hc hP hP hok hprime hne hPc hPc
  rw [(pdblIsPaddOfSamePoint s pd a).2]
  refine ⟨fun hzero => ?_, fun hi hy => ?_⟩
  · cases hi : P.inf with
    | true => rw [hleft hi, imageOf_of_inf hi]
    | false =>
      have hy : P.y = 0 := hzero.resolve_left (by simp [hi])
      exact hvertical hi hi rfl (by simp [hy])
  · have hdouble := double_mod_ne_zero hprime hne (Nat.pos_of_ne_zero hy) (affineOn_iff.mpr ⟨hi, hPc⟩).y_lt
    obtain ⟨lam, ⟨hlt, htangent, -⟩, hexec⟩ := hline hi hi fun hv => hdouble hv.2
    exact ⟨lam, hlt, htangent rfl, hexec⟩

/-- Settles O47: every scalar but 0 makes the first pass look at the point; scalar 1 adds it to infinity. -/
theorem smulByZeroAndOne : Obligations.SmulByZeroAndOne := by
  intro s pd a rs2 c hc hok
  subst hc
  generalize hc : curveOf s.params = c
  rw [exec_smul hok, hc]
  refine ⟨fun hk => ?_, fun hk hr => ?_, fun hk hr hs => ?_, fun hprime _ hP hk => ?_⟩
  · rw [hk, smul_zero]
    rfl
  · have hcanonical : ¬ c.canonical (point s a) = true := canonical_iff.not.mpr hr
    rw [smul_error hk (add_range fun h => hcanonical h.2) (add_range fun h => hcanonical h.2)]
    rfl
  · have hcanonical : c.canonical (point s a) = true := canonical_iff.mpr hr
    have hcontains : ¬ c.contains (point s a) = true := contains_iff.not.mpr hs
    rw [smul_error hk (add_notOnCurve ⟨rfl, hcanonical⟩ fun h => hcontains h.2)
      (add_notOnCurve ⟨hcanonical, hcanonical⟩ fun h => hcontains h.2)]
    rfl
  · obtain ⟨D, hD, -⟩ := (curveAnswer_add hP hP).exists_of_prime hprime
    have hone : c.smul (point s a) 1 = .ok (point s a) := by
      rw [Curve.smul, smulLoop_succ _ _ _ one_ne_zero, if_pos (Nat.mod_eq_of_lt one_lt_two),
        add_of_left_inf onCurve_infinity hP rfl, hD]
      rfl
    rw [hk, hone]
    rfl

/-- Settles O50: the generator passed CINIT, so modulo a prime every multiple of it is there. -/
theorem keygenResult : Obligations.KeygenResult := by
  intro s rd pd c hc hok
  subst hc
  generalize hc : curveOf s.params = c
  refine ⟨fun k rest h => ?_, fun h => ?_, fun d after hdraw => ⟨?_, fun hconstructed hprime hd hlt => ?_, fun hd => ?_⟩,
    fun rest h => ?_⟩
  · rw [draw, h]
  · rw [draw, h]
  · obtain ⟨k, q, hk, hdrawn, -, -⟩ | ⟨q, hq, -, -⟩ := draw_cases s.port
    · cases hdraw.symm.trans hk
      exact hdrawn
    · cases hdraw.symm.trans hq
  · obtain ⟨Q, hQ, hQc⟩ := (curveAnswer_smul d (onCurve_of_construct (hc ▸ hconstructed hok))).exists_of_prime hprime
    refine ⟨Q, hQ, hQc, ?_⟩
    rw [exec, execKeygen, withCurve_on hok, hdraw, hc]
    dsimp only
    rw [if_neg (by omega), hQ]
    rfl
  · rw [exec, execKeygen, withCurve_on hok, hdraw, hc]
    exact if_pos (by omega)
  · have hsilent : draw s.port = .silent { s.port with answers := rest } := by rw [draw, h]
    rw [exec, execKeygen, withCurve_on hok, hsilent]
    rfl

/-- Settles O38: each of these commands begins with the check of `CURVE_OK`. -/
theorem curveCommandsNeedCurve : Obligations.CurveCommandsNeedCurve := by
  intro s i hoff hi
  obtain ⟨a, rfl⟩ | ⟨d, x, rfl⟩ | ⟨d, a, b, rfl⟩ | ⟨d, a, rfl⟩ | ⟨d, a, k, rfl⟩ | ⟨d, q, rfl⟩ | ⟨r, u, d, rfl⟩ |
    ⟨r, u, q, rfl⟩ := hi
  all_goals
    simp only [exec, execPchk, execPrec, execPadd, execPdbl, execSmul, execKeygen, execSign, execVerify, withCurve_off hoff]
    rfl

/-- Settles O40: the test of `contains` is the congruence on the integers as they stand. -/
theorem pchkResult : Obligations.PchkResult := by
  intro s a c hc
  subst hc
  refine ⟨?_, rfl, rfl, rfl, rfl, rfl, rfl, rfl, rfl, rfl, rfl,
    fun hoff => curveCommandsNeedCurve s _ hoff (.inl ⟨a, rfl⟩), fun hok => ?_⟩
  · rw [encode, pointBits_eq_pointField]
    rfl
  · have hcontains : (curveOf s.params).contains (point s a) = decide (satisfies (curveOf s.params) (point s a)) :=
      Bool.eq_iff_iff.mpr (contains_iff.trans (decide_eq_true_iff).symm)
    rw [exec, execPchk, withCurve_on hok, hcontains]
    rfl

/-- Settles O42: the first failing check of `add` decides. -/
theorem paddOperandFaults : Obligations.PaddOperandFaults := by
  intro s pd a b c hc hok
  subst hc
  rw [exec_padd hok]
  simp only [← canonical_iff, ← contains_iff]
  refine ⟨fun hr => ?_, fun ha hb hs => ?_⟩
  · rw [add_range hr]
    rfl
  · rw [add_notOnCurve ⟨ha, hb⟩ hs]
    rfl

end Sys2Proof.Machine
end

section
/-! SUPPORT. The digest (43_sha256.md R120 to R127): the message schedule and the rounds, the blocks of a message however it was
appended, and the three commands. -/

namespace Sys2Proof.Machine

open Sys2Proof.Claims

/-! ## The word functions, bit by bit -/

/-- Bit `k` of `ROTR(x, n)` (43_sha256.md R122). -/
theorem getLsbD_rotateRight_word (x : Word) {n k : Nat} (hn : n < 32) (hk : k < 32) :
    (x.rotateRight n).getLsbD k = x.getLsbD ((k + n) % 32) := by
  rw [BitVec.getLsbD_rotateRight, Nat.mod_eq_of_lt hn]
  by_cases hwrap : k < 32 - n
  · rw [decide_eq_true hwrap, cond_true, Nat.mod_eq_of_lt (by omega), Nat.add_comm]
  · rw [decide_eq_false hwrap, cond_false, decide_eq_true hk, Bool.true_and]
    congr 1
    omega

/-- The six word functions (43_sha256.md R122). -/
theorem wordFunctionBits_of_lt {k : Nat} (x y z : Word) (hk : k < 32) : wordFunctionBits k x y z := by
  refine ⟨?_, ?_, ?_, ?_, ?_, ?_⟩
  · cases hx : x.getLsbD k <;> simp [ch, hx, hk, -BitVec.getLsbD_eq_getElem]
  · cases hx : x.getLsbD k <;> cases hy : y.getLsbD k <;> simp [maj, hx, hy]
  all_goals simp [bsig0, bsig1, ssig0, ssig1, getLsbD_rotateRight_word x _ hk, Nat.add_comm]

/-! ## The message schedule -/

/-- The words of a block are its groups of four bytes (43_sha256.md R123). -/
theorem blockWords_length {n : Nat} {bytes : List Byte} (h : bytes.length = 4 * n) : (blockWords bytes).length = n := by
  induction n generalizing bytes with
  | zero => rw [List.eq_nil_of_length_eq_zero h]; rfl
  | succ n ih =>
    match bytes, h with
    | b0 :: b1 :: b2 :: b3 :: rest, h => exact congrArg Nat.succ (ih (by simp only [List.length_cons] at h; omega))

theorem blockWords_getD (bytes : List Byte) {t : Nat} (ht : 4 * t + 3 < bytes.length) :
    (blockWords bytes).getD t 0 = wordOfBytes (bytes.getD (4 * t) 0) (bytes.getD (4 * t + 1) 0) (bytes.getD (4 * t + 2) 0)
      (bytes.getD (4 * t + 3) 0) := by
  induction t generalizing bytes with
  | zero =>
    match bytes, ht with
    | b0 :: b1 :: b2 :: b3 :: rest, _ => rfl
  | succ t ih =>
    match bytes, ht with
    | b0 :: b1 :: b2 :: b3 :: rest, ht =>
      exact ih rest (by simp only [List.length_cons] at ht; omega)

theorem extendSchedule_length (k : Nat) (w : List Word) : (extendSchedule k w).length = w.length + k := by
  induction k generalizing w with
  | zero => rfl
  | succ k ih => rw [extendSchedule, ih, List.length_append, List.length_singleton]; omega

/-- Extending a schedule keeps the words it has. -/
theorem extendSchedule_eq_append (k : Nat) (w : List Word) : ∃ rest, extendSchedule k w = w ++ rest := by
  induction k generalizing w with
  | zero => exact ⟨[], (List.append_nil w).symm⟩
  | succ k ih =>
    obtain ⟨rest, h⟩ := ih (w ++ [nextWord w])
    exact ⟨nextWord w :: rest, by rw [extendSchedule, h, List.append_assoc, List.singleton_append]⟩

theorem extendSchedule_getD (k : Nat) {w : List Word} {t : Nat} (ht : t < w.length) :
    (extendSchedule k w).getD t 0 = w.getD t 0 := by
  obtain ⟨rest, h⟩ := extendSchedule_eq_append k w
  rw [h, List.getD_append _ _ _ _ ht]

/-- Every further word is made from the words before it (43_sha256.md R123). -/
theorem extendSchedule_getD_eq_nextWord {k : Nat} {w : List Word} {t : Nat} (hle : w.length ≤ t) (hlt : t < w.length + k) :
    (extendSchedule k w).getD t 0 = nextWord ((extendSchedule k w).take t) := by
  induction k generalizing w with
  | zero => omega
  | succ k ih =>
    rw [extendSchedule]
    obtain rfl | hlater := hle.eq_or_lt
    · obtain ⟨rest, h⟩ := extendSchedule_eq_append k (w ++ [nextWord w])
      rw [h, List.append_assoc, List.take_left, List.getD_append_right _ _ _ _ le_rfl, Nat.sub_self]
      rfl
    · exact ih (by simpa using hlater) (by simp only [List.length_append, List.length_singleton]; omega)

/-- The recurrence, on the first `t` words of a list that has more (43_sha256.md R123). -/
theorem nextWord_take {w : List Word} {t : Nat} (h16 : 16 ≤ t) (ht : t ≤ w.length) :
    nextWord (w.take t) = ssig1 (w.getD (t - 2) 0) + w.getD (t - 7) 0 + ssig0 (w.getD (t - 15) 0) + w.getD (t - 16) 0 := by
  have hget : ∀ i, i < t → (w.take t).getD i 0 = w.getD i 0 := fun i hi => by
    rw [List.getD_eq_getElem?_getD, List.getElem?_take_of_lt hi, List.getD_eq_getElem?_getD]
  rw [nextWord, List.length_take_of_le ht, hget _ (by omega), hget _ (by omega), hget _ (by omega), hget _ (by omega)]

/-! ## The rounds -/

/-- Rounds run in two parts. -/
theorem rounds_append {ks ws : List Word} (hlen : ks.length = ws.length) (ks' ws' : List Word) (v : Working) :
    rounds (ks ++ ks') (ws ++ ws') v = rounds ks' ws' (rounds ks ws v) := by
  induction ks generalizing ws v with
  | nil => rw [List.eq_nil_of_length_eq_zero hlen.symm]; rfl
  | cons k ks ih =>
    match ws, hlen with
    | w :: ws, hlen => exact ih (Nat.succ.inj hlen) _

/-- The working words after the first `t` rounds. -/
theorem rounds_take_succ {ks ws : List Word} {t : Nat} (hk : t < ks.length) (hw : t < ws.length) (v : Working) :
    rounds (ks.take (t + 1)) (ws.take (t + 1)) v = round (rounds (ks.take t) (ws.take t) v) (ks.getD t 0) (ws.getD t 0) := by
  rw [List.take_succ_eq_append_getElem hk, List.take_succ_eq_append_getElem hw, rounds_append (by simp; omega),
    List.getD_eq_getElem _ _ hk, List.getD_eq_getElem _ _ hw]
  rfl

/-- The working words of a block after `t` rounds: those of the first `t` constants and schedule words (43_sha256.md R123). -/
def workingAfter (hin : Vector Word 8) (block : List Byte) (t : Nat) : Working :=
  rounds (roundConstants.take t) ((extendSchedule 48 (blockWords block)).take t)
    { a := hin[0], b := hin[1], c := hin[2], d := hin[3], e := hin[4], f := hin[5], g := hin[6], h := hin[7] }

/-- The final addition (43_sha256.md R123). -/
theorem compress_eq_add_workingAfter (hin : Vector Word 8) {block : List Byte}
    (hlen : (extendSchedule 48 (blockWords block)).length = 64) :
    compress hin block = #v[hin[0] + (workingAfter hin block 64).a, hin[1] + (workingAfter hin block 64).b,
      hin[2] + (workingAfter hin block 64).c, hin[3] + (workingAfter hin block 64).d, hin[4] + (workingAfter hin block 64).e,
      hin[5] + (workingAfter hin block 64).f, hin[6] + (workingAfter hin block 64).g, hin[7] + (workingAfter hin block 64).h] := by
  rw [workingAfter, List.take_of_length_le hlen.le]
  rfl

theorem roundStep_workingAfter (hin : Vector Word 8) {block : List Byte} {t : Nat} (ht : t < 64)
    (hlen : (extendSchedule 48 (blockWords block)).length = 64) :
    roundStep (kTable.getD t 0) ((extendSchedule 48 (blockWords block)).getD t 0) (workingAfter hin block t)
      (workingAfter hin block (t + 1)) := by
  rw [workingAfter, workingAfter, rounds_take_succ ht (by omega)]
  exact ⟨rfl, rfl, rfl, rfl, rfl, rfl, rfl, rfl⟩

/-! ## The blocks of a message -/

/-- Blocks are compressed in two parts. -/
theorem compressBlocks_add (n k : Nat) (h : Vector Word 8) (bytes : List Byte) :
    compressBlocks (n + k) h bytes = compressBlocks k (compressBlocks n h bytes) (bytes.drop (64 * n)) := by
  induction n generalizing h bytes with
  | zero => rw [Nat.zero_add]; rfl
  | succ n ih =>
    rw [Nat.succ_add, compressBlocks, ih, compressBlocks, List.drop_drop]
    congr 2
    omega

/-- The last block is compressed last. -/
theorem compressBlocks_succ (n : Nat) (h : Vector Word 8) (bytes : List Byte) :
    compressBlocks (n + 1) h bytes = compress (compressBlocks n h bytes) ((bytes.drop (64 * n)).take 64) :=
  compressBlocks_add n 1 h bytes

/-- Bytes after the blocks do not count. -/
theorem compressBlocks_append {n : Nat} (h : Vector Word 8) {bytes : List Byte} (hn : 64 * n ≤ bytes.length) (more : List Byte) :
    compressBlocks n h (bytes ++ more) = compressBlocks n h bytes := by
  induction n with
  | zero => rfl
  | succ n ih =>
    rw [compressBlocks_succ, compressBlocks_succ, ih (by omega), List.drop_append_of_le_length (by omega),
      List.take_append_of_le_length (by rw [List.length_drop]; omega)]

theorem compressBlocks_eq_foldl (n : Nat) (h : Vector Word 8) (bytes : List Byte) :
    compressBlocks n h bytes = (List.range n).foldl (fun h q => compress h ((bytes.drop (64 * q)).take 64)) h := by
  induction n with
  | zero => rfl
  | succ n ih => rw [compressBlocks_succ, ih, List.range_succ, List.foldl_append]; rfl

/-! ## The state after a message, however it was appended -/

/-- The whole blocks of a message are compressed, the bytes after them are pending, and the bytes are counted modulo 2^64. -/
def stateAfter (m : List Byte) : DigestState :=
  { h := compressBlocks (m.length / 64) iv m, hbuf := m.drop (64 * (m.length / 64)), hlen := BitVec.ofNat 64 m.length }

theorem absorb_eq_appendByte (d : DigestState) (v : Byte) : absorb d v = appendByte d v := by
  rw [absorb, appendByte, List.length_append, List.length_singleton]

/-- A byte that fills the buffer (43_sha256.md R126). -/
theorem appendByte_of_full {d : DigestState} (v : Byte) (h : d.hbuf.length + 1 = 64) :
    appendByte d v = { h := compress d.h (d.hbuf ++ [v]), hbuf := [], hlen := d.hlen + 1 } := by
  rw [← absorb_eq_appendByte, absorb, if_pos h]

/-- A byte that leaves room in the buffer (43_sha256.md R126). -/
theorem appendByte_of_room {d : DigestState} (v : Byte) (h : d.hbuf.length + 1 ≠ 64) :
    appendByte d v = { h := d.h, hbuf := d.hbuf ++ [v], hlen := d.hlen + 1 } := by
  rw [← absorb_eq_appendByte, absorb, if_neg h]

/-- One more byte fills a block or joins the pending ones. -/
theorem appendByte_stateAfter (m : List Byte) (v : Byte) : appendByte (stateAfter m) v = stateAfter (m ++ [v]) := by
  have hblocks : 64 * (m.length / 64) ≤ m.length := Nat.mul_div_le _ _
  have hdrop : m.drop (64 * (m.length / 64)) ++ [v] = (m ++ [v]).drop (64 * (m.length / 64)) :=
    (List.drop_append_of_le_length hblocks).symm
  have hlen : (m ++ [v]).length = m.length + 1 := List.length_append
  have hcount : BitVec.ofNat 64 m.length + 1 = BitVec.ofNat 64 (m ++ [v]).length := by rw [hlen, BitVec.ofNat_add]; rfl
  have hpending : (stateAfter m).hbuf.length = m.length - 64 * (m.length / 64) := List.length_drop
  by_cases hfull : (stateAfter m).hbuf.length + 1 = 64
  · have hnext : (m ++ [v]).length / 64 = m.length / 64 + 1 := by omega
    have hblock : ((m ++ [v]).drop (64 * (m.length / 64))).take 64 = (m ++ [v]).drop (64 * (m.length / 64)) :=
      List.take_of_length_le (by rw [List.length_drop]; omega)
    have hnone : (m ++ [v]).drop (64 * (m.length / 64 + 1)) = [] := List.drop_eq_nil_of_le (by omega)
    rw [appendByte_of_full v hfull]
    simp only [stateAfter, hdrop, hcount, hnext, compressBlocks_succ, compressBlocks_append _ hblocks, hblock, hnone]
  · have hsame : (m ++ [v]).length / 64 = m.length / 64 := by omega
    rw [appendByte_of_room v hfull]
    simp only [stateAfter, hdrop, hcount, hsame, compressBlocks_append _ hblocks]

theorem appendBytes_initial (m : List Byte) : appendBytes .initial m = stateAfter m := by
  induction m using List.reverseRecOn with
  | nil => rfl
  | append_singleton m v ih => rw [appendBytes_append, ih]; exact appendByte_stateAfter m v

/-! ## Padding -/

/-- What is appended to a message before its last blocks are compressed (43_sha256.md R125). -/
def padding (n : Nat) : List Byte :=
  [0x80] ++ List.replicate ((119 - n % 64) % 64) 0 ++ (List.range 8).map (lengthByte (8 * n))

/-- `sha256` compresses the padded message (43_sha256.md R125). -/
theorem sha256_eq (m : List Byte) :
    sha256 m = wideOfWords (compressBlocks ((m ++ padding m.length).length / 64) iv (m ++ padding m.length)) := by
  rw [compressBlocks_eq_foldl, sha256, padding, List.append_assoc, List.append_assoc, ← List.append_assoc [0x80]]
  rfl

/-- The eight bytes of a length (43_sha256.md R125). -/
theorem bytesOf64_ofNat {n : Nat} (h : n < 2 ^ 64) : bytesOf64 (BitVec.ofNat 64 n) = (List.range 8).map (lengthByte n) := by
  have hbyte : ∀ k, (BitVec.ofNat 64 n).extractLsb' k 8 = BitVec.ofNat 8 (n / 2 ^ k) := fun k => by
    rw [BitVec.extractLsb', BitVec.toNat_ofNat, Nat.mod_eq_of_lt h, Nat.shiftRight_eq_div_pow]
  simp only [bytesOf64, hbyte]
  rfl

/-- The tail is the pending bytes and the padding of the whole message (43_sha256.md R125). -/
theorem paddedTail_stateAfter {m : List Byte} (h : m.length ≤ 2 ^ 61 - 1) :
    paddedTail (stateAfter m) = (m ++ padding m.length).drop (64 * (m.length / 64)) := by
  have hblocks : 64 * (m.length / 64) ≤ m.length := Nat.mul_div_le _ _
  have hcount : (BitVec.ofNat 64 m.length).toNat = m.length := Nat.mod_eq_of_lt (by omega)
  have hzeros : zerosNeeded ((m.drop (64 * (m.length / 64))).length + 1) = (119 - m.length % 64) % 64 := by
    rw [zerosNeeded, List.length_drop]; omega
  rw [List.drop_append_of_le_length hblocks, paddedTail]
  dsimp only [stateAfter]
  rw [hcount, bytesOf64_ofNat (by omega), List.length_append, List.length_singleton, hzeros, padding]
  simp only [List.append_assoc]

/-! ## The obligations -/

/-- Settles O54: the blocks compressed while appending and those of the tail are the blocks of the padded message. -/
theorem digestIsSha256OfMessage : Obligations.DigestIsSha256OfMessage := by
  intro m hm
  rw [appendBytes_initial, digestValue_ok, paddedTail_stateAfter hm, sha256_eq]
  have hcount : (m ++ padding m.length).length / 64 =
      m.length / 64 + ((m ++ padding m.length).drop (64 * (m.length / 64))).length / 64 := by
    rw [List.length_drop, List.length_append]; omega
  rw [hcount, compressBlocks_add, compressBlocks_append _ (Nat.mul_div_le _ _)]
  rfl

/-- Settles O53: the working words are those after each number of rounds. -/
theorem messageSchedule : Obligations.MessageSchedule := by
  refine ⟨fun k x y z => wordFunctionBits_of_lt x y z, rfl, fun block hblock => ?_⟩
  have hwords : (blockWords block).length = 16 := blockWords_length hblock
  have hlen : (extendSchedule 48 (blockWords block)).length = 64 := by rw [extendSchedule_length, hwords]
  refine ⟨hlen, fun t ht => ?_, fun t h16 ht => ?_, fun hin => ?_⟩
  · rw [extendSchedule_getD 48 (by omega), blockWords_getD block (by omega)]
    rfl
  · rw [extendSchedule_getD_eq_nextWord (by omega) (by omega), nextWord_take h16 (by omega)]
  · exact ⟨workingAfter hin block, rfl, fun t ht => roundStep_workingAfter hin ht hlen, compress_eq_add_workingAfter hin hlen⟩

/-- Settles O52: the length is checked before any byte is taken. -/
theorem happendResult : Obligations.HappendResult := by
  intro s len
  refine ⟨rfl, fun hlen => ?_, fun _ hfit => ?_, fun _ hover => ?_⟩
  · have hword : wordOf 0x21 0 0 0 len = mkWord 0x21 0 0 0 len := rfl
    rw [hword, decode, opcodeOf_mkWord]
    simp [decodeHappend, Config.msgBytes, hlen]
  · rw [exec, execHappend, if_neg (by rw [Config.hashMaxBytes]; omega), funext₂ absorb_eq_appendByte]
    simp [memRead, appendBytes]
  · rw [exec, execHappend, if_pos (by rw [Config.hashMaxBytes]; exact hover)]
    rfl

/-- HDIGEST always completes (43_sha256.md R127). -/
theorem exec_hdigest {s : State} (rd : SReg) {v : Wide} (h : digestValue s.digest = .ok v) :
    exec (.hdigest rd) s = .next (withScalar s rd v.toNat) := by
  rw [exec, execHdigest, h, withScalar, BitVec.ofNat_toNat, BitVec.setWidth_eq]
  rfl

/-- Settles O55: HDIGEST leaves the DigestState, so the second run writes the same value over the first. -/
theorem hdigestResult : Obligations.HdigestResult := by
  intro s rd
  have hv := digestValue_ok s.digest
  generalize wideOfWords _ = v at hv
  refine ⟨rfl, v, hv, exec_hdigest rd hv, ?_⟩
  have hagain : digestValue (withScalar s rd v.toNat).digest = .ok v := hv
  rw [exec_hdigest rd hagain, withScalar_withScalar]

/-- Settles O51. -/
theorem hresetResult : Obligations.HresetResult := ⟨rfl, fun _ => rfl⟩

end Sys2Proof.Machine
end

section
/-! SUPPORT. Inverses modulo `n` as the statements give them, and VERIFY (44_ecdsa.md R142): the inputs it rejects, and what it decides of
the others. -/

namespace Sys2Proof.Machine

open Sys2Proof.Claims

variable {c : Curve} {dg : DigestState} {Q : Point} {r sg : Nat}

/-! ## Inverses modulo `n` -/

/-- `invmod` answers the inverse that a witness gives, up to `n`. -/
theorem invmod_modEq_of_mul_mod {k w n : Nat} (hn : 2 ≤ n) (hw : k * w % n = 1) :
    ∃ u, invmod (k : Int) n = .ok u ∧ u ≡ w [MOD n] := by
  have hkw : k * w ≡ 1 [MOD n] := (modEq_one_iff hn).mpr hw
  obtain ⟨u, hu, -, -, hku⟩ := invmod_natCast_ok hn (Nat.coprime_of_mul_modEq_one w hkw)
  refine ⟨u, hu, ?_⟩
  calc u = 1 * u := (one_mul u).symm
    _ ≡ k * w * u [MOD n] := (hkw.mul_right u).symm
    _ = k * u * w := mul_right_comm k w u
    _ ≡ 1 * w [MOD n] := hku.mul_right w
    _ = w := one_mul w

theorem exists_mul_mod_eq_one {k n : Nat} (hn : 2 ≤ n) (hco : Nat.gcd k n = 1) : ∃ w, k * w % n = 1 := by
  obtain ⟨w, -, -, -, hw⟩ := invmod_natCast_ok hn hco
  exact ⟨w, (modEq_one_iff hn).mp hw⟩

theorem gcd_eq_one_of_mul_mod {k w n : Nat} (hn : 2 ≤ n) (hw : k * w % n = 1) : Nat.gcd k n = 1 :=
  Nat.coprime_of_mul_modEq_one w ((modEq_one_iff hn).mpr hw)

/-! ## The checks of VERIFY in order -/

theorem verifies_of_not_onCurve (hQ : ¬ onCurve c Q) : c.verifies dg r sg Q = .ok false := by
  unfold Curve.verifies
  by_cases hr : c.canonical Q = true
  · have hs : ¬ c.contains Q = true := fun hs => hQ ⟨canonical_iff.mp hr, contains_iff.mp hs⟩
    rw [if_neg (not_not.mpr hr), if_pos hs]
  · exact if_pos hr

/-- Past the checks of the key, those of its order, of the ranges and of the inverse are left. -/
theorem verifies_of_onCurve {V : Point} {e : Wide} (hQ : onCurve c Q) (hV : c.smul Q c.n = .ok V)
    (he : digestValue dg = .ok e) :
    c.verifies dg r sg Q =
      if V.inf = true ∧ (1 ≤ r ∧ r < c.n) ∧ 1 ≤ sg ∧ sg < c.n then c.verifyEquations e.toNat r sg Q else .ok false := by
  rw [Curve.verifies, if_neg (not_not.mpr (canonical_iff.mpr hQ.1)), if_neg (not_not.mpr (contains_iff.mpr hQ.2)), hV, he]
  dsimp only
  by_cases hi : V.inf = true
  case neg => rw [if_pos hi, if_neg fun h => hi h.1]
  by_cases hr : r < 1 ∨ c.n ≤ r
  case pos => rw [if_neg (not_not.mpr hi), if_pos hr, if_neg (by omega)]
  by_cases hs : sg < 1 ∨ c.n ≤ sg
  case pos => rw [if_neg (not_not.mpr hi), if_neg hr, if_pos hs, if_neg (by omega)]
  rw [if_neg (not_not.mpr hi), if_neg hr, if_neg hs, if_pos ⟨hi, by omega, by omega⟩]

/-- What VERIFY rejects without the equations: a key off the curve or of another order, `r` or `s` out of range, `s` with no
inverse (44_ecdsa.md R142). -/
def badInputs (c : Curve) (r s : Nat) (Q : Point) : Prop :=
  ¬ onCurve c Q ∨
    ∃ V, c.smul Q c.n = .ok V ∧ (V.inf = false ∨ r < 1 ∨ c.n ≤ r ∨ s < 1 ∨ c.n ≤ s ∨ Nat.gcd s c.n ≠ 1)

theorem verifies_of_badInputs (h : badInputs c r sg Q) : c.verifies dg r sg Q = .ok false := by
  by_cases hQ : onCurve c Q
  case neg => exact verifies_of_not_onCurve hQ
  obtain ⟨V, hV, hbad⟩ := h.resolve_left (not_not.mpr hQ)
  rw [verifies_of_onCurve hQ hV (digestValue_ok dg)]
  split
  next hok =>
    obtain ⟨hi, ⟨hr, hrn⟩, hs, hsn⟩ := hok
    have hgcd : Nat.gcd sg c.n ≠ 1 := by
      simp only [hi, Bool.true_eq_false, false_or] at hbad
      omega
    rw [Curve.verifyEquations, if_pos hgcd]
  next => rfl

/-! ## The equations of VERIFY -/

/-- With good inputs the equations decide, and any inverse of `s` gives the same two scalars. -/
theorem verifies_of_goodInputs {V : Point} {e : Wide} {w : Nat} (hQ : onCurve c Q) (hV : c.smul Q c.n = .ok V)
    (hi : V.inf = true) (he : digestValue dg = .ok e) (hr : 1 ≤ r ∧ r < c.n) (hs : 1 ≤ sg ∧ sg < c.n) (hw : sg * w % c.n = 1) :
    c.verifies dg r sg Q = c.verifyPoint r (e.toNat * w % c.n) (r * w % c.n) Q := by
  have hn : 2 ≤ c.n := by omega
  obtain ⟨u, hu, huw⟩ := invmod_modEq_of_mul_mod hn hw
  have hscalar : ∀ a, a * u % c.n = a * w % c.n := fun a => huw.mul_left a
  rw [verifies_of_onCurve hQ hV he, if_pos ⟨hi, hr, hs⟩, Curve.verifyEquations,
    if_neg (not_not.mpr (gcd_eq_one_of_mul_mod hn hw)), hu]
  dsimp only
  rw [hscalar, hscalar]

theorem verifyPoint_eq {u1 u2 : Nat} {A B Pt : Point} (hA : c.smul c.g u1 = .ok A) (hB : c.smul Q u2 = .ok B)
    (hPt : c.add A B = .ok Pt) : c.verifyPoint r u1 u2 Q = .ok (!Pt.inf && decide (Pt.x % c.n = r)) := by
  simp only [Curve.verifyPoint, hA, hB, hPt]

/-- A valid signature is accepted, whatever the modulus. -/
theorem verifies_of_validSignature {e : Wide} (he : digestValue dg = .ok e) (h : validSignature c e.toNat r sg Q) :
    c.verifies dg r sg Q = .ok true := by
  obtain ⟨hQ, ⟨V, hV, hi⟩, hr, hrn, hs, hsn, w, A, B, Pt, hw, hA, hB, hPt, hinf, hx⟩ := h
  rw [verifies_of_goodInputs hQ hV hi he ⟨hr, hrn⟩ ⟨hs, hsn⟩ hw, verifyPoint_eq hA hB hPt, hinf, decide_eq_true hx]
  rfl

/-- Modulo a prime every multiple and the sum exist, so what is not valid is rejected and no fault is raised. -/
theorem verifies_of_not_validSignature {e : Wide} (hprime : c.p.Prime) (hg : onCurve c c.g) (he : digestValue dg = .ok e)
    (h : ¬ validSignature c e.toNat r sg Q) : c.verifies dg r sg Q = .ok false := by
  by_cases hbad : badInputs c r sg Q
  case pos => exact verifies_of_badInputs hbad
  have hQ : onCurve c Q := not_not.mp fun hQ => hbad (.inl hQ)
  obtain ⟨V, hV, -⟩ := (curveAnswer_smul c.n hQ).exists_of_prime hprime
  have hgood := fun hno => hbad (.inr ⟨V, hV, hno⟩)
  simp only [imp_false, not_or, Bool.not_eq_false, not_lt, not_le, ne_eq, not_not] at hgood
  obtain ⟨hi, hr, hrn, hs, hsn, hgcd⟩ := hgood
  obtain ⟨w, hw⟩ := exists_mul_mod_eq_one (by omega) hgcd
  obtain ⟨A, hA, hAc⟩ := (curveAnswer_smul (e.toNat * w % c.n) hg).exists_of_prime hprime
  obtain ⟨B, hB, hBc⟩ := (curveAnswer_smul (r * w % c.n) hQ).exists_of_prime hprime
  obtain ⟨Pt, hPt, -⟩ := (curveAnswer_add hAc hBc).exists_of_prime hprime
  rw [verifies_of_goodInputs hQ hV hi he ⟨hr, hrn⟩ ⟨hs, hsn⟩ hw, verifyPoint_eq hA hB hPt]
  refine congrArg Except.ok (Bool.eq_false_iff.mpr fun hyes => h ?_)
  rw [Bool.and_eq_true, Bool.not_eq_true', decide_eq_true_eq] at hyes
  exact ⟨hQ, ⟨V, hV, hi⟩, hr, hrn, hs, hsn, w, A, B, Pt, hw, hA, hB, hPt, hyes⟩

/-! ## The obligations -/

theorem exec_verify {s : State} {rsR rsS : SReg} {psQ : PReg} {b : Bool} (hok : s.curveOk = true)
    (h : (curveOf s.params).verifies s.digest (scalar s rsR) (scalar s rsS) (point s psQ) = .ok b) :
    exec (.verify rsR rsS psQ) s = .next { s with t := b } := by
  rw [exec, execVerify, withCurve_on hok, h]
  rfl

/-- Settles O58: the equations are reached with good inputs alone, and modulo a prime they end. -/
theorem verifyDecidesValidity : Obligations.VerifyDecidesValidity := by
  intro s rsR rsS psQ c e hc hok hconstructed hprime he
  subst hc
  have hg := onCurve_of_construct (hconstructed hok)
  exact ⟨fun h => exec_verify hok (verifies_of_validSignature he h),
    fun h => exec_verify hok (verifies_of_not_validSignature hprime hg he h)⟩

/-- Settles O59: each bad input is met by a check before the equations. -/
theorem verifyRejectsBadInputs : Obligations.VerifyRejectsBadInputs := by
  intro s rsR rsS psQ c hc hok hbad
  subst hc
  exact exec_verify hok (verifies_of_badInputs hbad)

end Sys2Proof.Machine
end

section
/-! SUPPORT. SIGN (44_ecdsa.md R141): one pass of the loop, the passes one after another, and the three ways it ends. -/

namespace Sys2Proof.Machine

open Sys2Proof.Claims

variable {c : Curve} {dg : DigestState} {e : Wide} {d k tries r sg : Nat} {p q : RandomPort} {R : Point}

/-! ## `r` and `s` of one pass -/

theorem signR_of_inf (h : R.inf = true) : c.signR R = 0 := if_pos h

theorem signR_of_affine (h : R.inf = false) : c.signR R = R.x % c.n := if_neg (by simp [h])

/-- A draw with an inverse; every inverse gives the same `s`. -/
theorem signS_eq {w : Nat} (hn : 2 ≤ c.n) (hw : k * w % c.n = 1) (a d r : Nat) :
    c.signS k a d r = .ok (w * (a + d * r) % c.n) := by
  obtain ⟨u, hu, huw⟩ := invmod_modEq_of_mul_mod hn hw
  rw [Curve.signS, hu]
  exact congrArg Except.ok (huw.mul_right _)

theorem signS_of_not_coprime (hk : Nat.gcd k c.n ≠ 1) (a d r : Nat) : c.signS k a d r = .error .notInvertible := by
  have hgcd : Nat.gcd (euclidMod k c.n) c.n ≠ 1 := by rwa [euclidMod_natCast, (Nat.mod_modEq k c.n).gcd_eq]
  rw [Curve.signS, invmod_error hgcd]

/-! ## One pass, by its draw -/

theorem signLoop_of_silent (hdraw : draw p = .silent q) : c.signLoop dg d (tries + 1) p = .silent q := by
  rw [Curve.signLoop, hdraw]

section
variable (hdraw : draw p = .answered k q)
include hdraw

theorem signLoop_of_out_of_range (hk : k < 1 ∨ c.n ≤ k) : c.signLoop dg d (tries + 1) p = .faulted .rngRange q := by
  rw [Curve.signLoop, hdraw]
  exact if_pos hk

variable (hk : 1 ≤ k) (hlt : k < c.n)
include hk hlt

theorem signLoop_of_smul_error {x : FaultCause} (hR : c.smul c.g k = .error x) :
    c.signLoop dg d (tries + 1) p = .faulted x q := by
  have hrange : ¬(k < 1 ∨ c.n ≤ k) := by omega
  simp only [Curve.signLoop, hdraw, if_neg hrange, hR]

variable (hR : c.smul c.g k = .ok R)
include hR

theorem signLoop_of_r_zero (hr : c.signR R = 0) : c.signLoop dg d (tries + 1) p = c.signLoop dg d tries q := by
  have hrange : ¬(k < 1 ∨ c.n ≤ k) := by omega
  simp only [Curve.signLoop, hdraw, if_neg hrange, hR, if_pos hr]

variable (hr : c.signR R ≠ 0) (he : digestValue dg = .ok e)
include hr he

theorem signLoop_of_signS_error {x : FaultCause} (hs : c.signS k e.toNat d (c.signR R) = .error x) :
    c.signLoop dg d (tries + 1) p = .faulted x q := by
  have hrange : ¬(k < 1 ∨ c.n ≤ k) := by omega
  simp only [Curve.signLoop, hdraw, if_neg hrange, hR, if_neg hr, he, hs]

theorem signLoop_of_signS_ok (hs : c.signS k e.toNat d (c.signR R) = .ok sg) :
    c.signLoop dg d (tries + 1) p = if sg = 0 then c.signLoop dg d tries q else .signed (c.signR R) sg q := by
  have hrange : ¬(k < 1 ∨ c.n ≤ k) := by omega
  simp only [Curve.signLoop, hdraw, if_neg hrange, hR, if_neg hr, he, hs]

end

/-- A retry goes on with one pass less (44_ecdsa.md R141). -/
theorem signLoop_of_retryDraw (hdraw : draw p = .answered k q) (he : digestValue dg = .ok e) (h : retryDraw c e.toNat d k) :
    c.signLoop dg d (tries + 1) p = c.signLoop dg d tries q := by
  obtain ⟨hk, hlt, R, hR, hwhy⟩ := h
  by_cases hr : c.signR R = 0
  · exact signLoop_of_r_zero hdraw hk hlt hR hr
  · have hi : R.inf = false := Bool.eq_false_iff.mpr fun hi => hr (signR_of_inf hi)
    have hx := signR_of_affine (c := c) hi
    obtain ⟨w, hw, hs⟩ := (hwhy.resolve_left (by simp [hi])).resolve_left (hx ▸ hr)
    rw [signLoop_of_signS_ok hdraw hk hlt hR hr he (signS_eq (by omega) hw _ _ _), hx, if_pos hs]

theorem signLoop_of_signingDraw (hdraw : draw p = .answered k q) (he : digestValue dg = .ok e)
    (h : signingDraw c e.toNat d k r sg) : c.signLoop dg d (tries + 1) p = .signed r sg q := by
  obtain ⟨hk, hlt, R, w, hR, hi, rfl, hr, hw, rfl, hs⟩ := h
  have hx := signR_of_affine (c := c) hi
  rw [signLoop_of_signS_ok hdraw hk hlt hR (hx ▸ hr) he (signS_eq (by omega) hw _ _ _), hx, if_neg hs]

/-- Everything an answered pass can do: fault, try again, or end with a signature. -/
theorem signLoop_pass_cases (hdraw : draw p = .answered k q) (he : digestValue dg = .ok e) (d tries : Nat) :
    (∃ x, c.signLoop dg d (tries + 1) p = .faulted x q) ∨
    c.signLoop dg d (tries + 1) p = c.signLoop dg d tries q ∨
    ∃ r sg, signingDraw c e.toNat d k r sg ∧ c.signLoop dg d (tries + 1) p = .signed r sg q := by
  by_cases hrange : k < 1 ∨ c.n ≤ k
  case pos => exact .inl ⟨_, signLoop_of_out_of_range hdraw hrange⟩
  have hk : 1 ≤ k := by omega
  have hlt : k < c.n := by omega
  cases hR : c.smul c.g k with
  | error x => exact .inl ⟨x, signLoop_of_smul_error hdraw hk hlt hR⟩
  | ok R =>
    by_cases hr : c.signR R = 0
    case pos => exact .inr (.inl (signLoop_of_r_zero hdraw hk hlt hR hr))
    by_cases hco : Nat.gcd k c.n = 1
    case neg => exact .inl ⟨_, signLoop_of_signS_error hdraw hk hlt hR hr he (signS_of_not_coprime hco _ _ _)⟩
    obtain ⟨w, hw⟩ := exists_mul_mod_eq_one (by omega) hco
    rw [signLoop_of_signS_ok hdraw hk hlt hR hr he (signS_eq (by omega) hw _ _ _)]
    by_cases hs : w * (e.toNat + d * c.signR R) % c.n = 0
    case pos => exact .inr (.inl (if_pos hs))
    have hi : R.inf = false := Bool.eq_false_iff.mpr fun hi => hr (signR_of_inf hi)
    have hx := signR_of_affine (c := c) hi
    exact .inr (.inr ⟨_, _, ⟨hk, hlt, R, w, hR, hi, hx, hr, hw, rfl, hs⟩, if_neg hs⟩)

/-! ## The passes one after another -/

/-- Draws that are retries are spent one by one. -/
theorem signLoop_of_retries {ks : List Nat} (tries : Nat) (he : digestValue dg = .ok e) (hdraws : drawsInTurn p ks q)
    (hks : ∀ k ∈ ks, retryDraw c e.toNat d k) : c.signLoop dg d (tries + ks.length) p = c.signLoop dg d tries q := by
  induction ks generalizing p with
  | nil =>
    cases hdraws
    rfl
  | cons k ks ih =>
    obtain ⟨mid, hdraw, hrest⟩ := hdraws
    obtain ⟨hretry, hretries⟩ := List.forall_mem_cons.mp hks
    rw [List.length_cons, ← add_assoc, signLoop_of_retryDraw hdraw he hretry]
    exact ih hrest hretries

/-- The port when the loop ends. -/
def Signing.portAfter : Signing → RandomPort
  | .signed _ _ q => q
  | .faulted _ q => q
  | .silent q => q

/-- The loop makes one draw a pass at most. -/
theorem signLoop_drawn (c : Curve) (dg : DigestState) (d tries : Nat) (p : RandomPort) :
    p.drawn ≤ (c.signLoop dg d tries p).portAfter.drawn ∧ (c.signLoop dg d tries p).portAfter.drawn ≤ p.drawn + tries := by
  induction tries generalizing p with
  | zero => exact ⟨le_refl _, le_refl _⟩
  | succ tries ih =>
    obtain ⟨k, q, hdraw, hdrawn, -, -⟩ | ⟨q, hdraw, hdrawn, -⟩ := draw_cases p
    · obtain ⟨x, h⟩ | h | ⟨r, sg, -, h⟩ := signLoop_pass_cases (c := c) hdraw (digestValue_ok dg) d tries
      · rw [h, Signing.portAfter]
        omega
      · obtain ⟨hle, hge⟩ := ih q
        rw [h]
        omega
      · rw [h, Signing.portAfter]
        omega
    · rw [signLoop_of_silent hdraw, Signing.portAfter]
      omega

/-- A loop that ends with a signature has made a draw that gives it. -/
theorem signLoop_signed (he : digestValue dg = .ok e) (h : c.signLoop dg d tries p = .signed r sg q) :
    p.drawn < q.drawn ∧ ∃ k, signingDraw c e.toNat d k r sg := by
  induction tries generalizing p with
  | zero => cases h
  | succ tries ih =>
    obtain ⟨k, mid, hdraw, hdrawn, -, -⟩ | ⟨mid, hdraw, -, -⟩ := draw_cases p
    · obtain ⟨x, hpass⟩ | hpass | ⟨r', sg', hsigning, hpass⟩ := signLoop_pass_cases (c := c) hdraw he d tries
      · cases hpass.symm.trans h
      · obtain ⟨hlt, hsigning⟩ := ih (hpass.symm.trans h)
        exact ⟨by omega, hsigning⟩
      · cases hpass.symm.trans h
        exact ⟨by omega, k, hsigning⟩
    · cases (signLoop_of_silent hdraw).symm.trans h

/-! ## The command -/

variable {s t : State} {rdR rdS rsD : SReg}

theorem exec_sign_of_key_out_of_range (hok : s.curveOk = true) (hd : scalar s rsD < 1 ∨ (curveOf s.params).n ≤ scalar s rsD) :
    exec (.sign rdR rdS rsD) s = .next (takeFault .range s) := by
  rw [exec, execSign, withCurve_on hok, if_pos hd]
  rfl

/-- SIGN with a key in range is the loop and what it does with the loop's end. -/
theorem exec_sign_of_key (hok : s.curveOk = true) (hd : 1 ≤ scalar s rsD) (hlt : scalar s rsD < (curveOf s.params).n) :
    exec (.sign rdR rdS rsD) s = finishSign s rdR rdS
      ((curveOf s.params).signLoop s.digest (scalar s rsD) Config.signRetryLimit s.port) := by
  rw [exec, execSign, withCurve_on hok, if_neg (by omega)]

/-- Everything SIGN can do: fault before any draw, or run the loop. -/
theorem exec_sign_cases (s : State) (rdR rdS rsD : SReg) :
    (∃ x, exec (.sign rdR rdS rsD) s = .next (takeFault x s)) ∨
    exec (.sign rdR rdS rsD) s = finishSign s rdR rdS
      ((curveOf s.params).signLoop s.digest (scalar s rsD) Config.signRetryLimit s.port) := by
  by_cases hok : s.curveOk = true
  case neg =>
    rw [exec, execSign, withCurve_off (eq_false_of_ne_true hok)]
    exact .inl ⟨.noCurve, rfl⟩
  by_cases hd : scalar s rsD < 1 ∨ (curveOf s.params).n ≤ scalar s rsD
  case pos => exact .inl ⟨.range, exec_sign_of_key_out_of_range hok hd⟩
  exact .inr (exec_sign_of_key hok (by omega) (by omega))

/-- A SIGN that ends, and neither faults nor waits, has written a signature. -/
theorem exec_sign_signed (h : exec (.sign rdR rdS rsD) s = .next t) (hf : t.fault = false) (hw : t.waiting = false) :
    ∃ r sg q, (curveOf s.params).signLoop s.digest (scalar s rsD) Config.signRetryLimit s.port = .signed r sg q ∧
      t = setScalar (setScalar { s with port := q } rdR r) rdS sg := by
  obtain ⟨x, hfault⟩ | hrun := exec_sign_cases s rdR rdS rsD
  · cases hfault.symm.trans h
    cases hf
  obtain ⟨r, sg, q, hloop, hend⟩ | ⟨x, q, -, hend⟩ | ⟨q, -, hend⟩ := finishSign_cases s rdR rdS _
  · exact ⟨r, sg, q, hloop, Result.next_inj.mp (h.symm.trans (hrun.trans hend))⟩
  · cases (hrun.trans hend).symm.trans h
    cases hf
  · cases (hrun.trans hend).symm.trans h
    cases hw

/-- However SIGN ends, it has made at most a draw for each pass of its loop. -/
theorem exec_sign_drawn (h : exec (.sign rdR rdS rsD) s = .next t) :
    s.port.drawn ≤ t.port.drawn ∧ t.port.drawn ≤ s.port.drawn + Config.signRetryLimit := by
  obtain ⟨x, hfault⟩ | hrun := exec_sign_cases s rdR rdS rsD
  · cases hfault.symm.trans h
    exact ⟨le_refl _, Nat.le_add_right _ _⟩
  have hport : ((curveOf s.params).signLoop s.digest (scalar s rsD) Config.signRetryLimit s.port).portAfter = t.port := by
    obtain ⟨r, sg, q, hloop, hend⟩ | ⟨x, q, hloop, hend⟩ | ⟨q, hloop, hend⟩ := finishSign_cases s rdR rdS _
    all_goals
      cases (hrun.trans hend).symm.trans h
      rw [hloop]
      rfl
  rw [← hport]
  exact signLoop_drawn _ _ _ _ _

/-- The two registers that a signature is written to. -/
theorem scalars_of_signature {n : Nat} (hne : rdR ≠ rdS) (hn : n < 2 ^ 256) (hr : r < n) (hs : sg < n) (s : State) :
    scalar (setScalar (setScalar s rdR r) rdS sg) rdR = r ∧ scalar (setScalar (setScalar s rdR r) rdS sg) rdS = sg :=
  ⟨(scalar_withScalar_other _ sg hne).trans (scalar_setScalar_same _ _ _ (hr.trans hn)),
    scalar_setScalar_same _ _ _ (hs.trans hn)⟩

theorem signingDraw_ranges {a : Nat} (h : signingDraw c a d k r sg) : (1 ≤ r ∧ r < c.n) ∧ 1 ≤ sg ∧ sg < c.n := by
  obtain ⟨-, hlt, R, w, -, -, rfl, hr, -, rfl, hs⟩ := h
  have hn : 0 < c.n := by omega
  exact ⟨⟨Nat.pos_of_ne_zero hr, Nat.mod_lt _ hn⟩, Nat.pos_of_ne_zero hs, Nat.mod_lt _ hn⟩

/-! ## The obligations -/

/-- Settles O56: the first pass of the loop ends it. -/
theorem signOnFirstDraw : Obligations.SignOnFirstDraw := by
  intro s rdR rdS rsD c d _ hc hok hd
  subst hc hd
  refine ⟨fun hkey => exec_sign_of_key_out_of_range hok (by omega), fun k after hd hlt hdraw hk => ?_,
    fun k after w R e hd hlt hdraw hk hkn hR hi hr he hw hs => ?_⟩
  · rw [exec_sign_of_key hok hd hlt, Config.signRetryLimit, signLoop_of_out_of_range hdraw (by omega)]
    rfl
  · rw [exec_sign_of_key hok hd hlt, Config.signRetryLimit,
      signLoop_of_signingDraw hdraw he ⟨hk, hkn, R, w, hR, hi, rfl, hr, hw, rfl, hs⟩]
    rfl

/-- Settles O57: the loop makes a draw a pass, a retry is a pass that goes on, and the next pass decides. -/
theorem signDrawsAndRanges : Obligations.SignDrawsAndRanges := by
  refine ⟨fun s t rdR rdS rsD hne _ h => ⟨(exec_sign_drawn h).1, (exec_sign_drawn h).2, fun hf hw => ?_⟩,
    fun s rdR rdS rsD c e d ks mid _ hc hok he hd hd1 hdn hdraws hks => ?_⟩
  · obtain ⟨r, sg, q, hloop, rfl⟩ := exec_sign_signed h hf hw
    obtain ⟨hdrawn, k, hsigning⟩ := signLoop_signed (digestValue_ok s.digest) hloop
    obtain ⟨hr, hs⟩ := signingDraw_ranges hsigning
    obtain ⟨hR, hS⟩ := scalars_of_signature hne (BitVec.isLt s.params.cn) hr.2 hs.2 { s with port := q }
    rw [hR, hS]
    exact ⟨hdrawn, hr.1, hr.2, hs⟩
  · subst hc hd
    rw [exec_sign_of_key hok hd1 hdn]
    refine ⟨fun hlimit => ?_, fun hlimit => ?_⟩
    · rw [← hlimit, ← Nat.zero_add ks.length, signLoop_of_retries 0 he hdraws hks]
      rfl
    · obtain ⟨m, hm⟩ : ∃ m, Config.signRetryLimit = m + 1 + ks.length := ⟨Config.signRetryLimit - ks.length - 1, by omega⟩
      rw [hm, signLoop_of_retries (m + 1) he hdraws hks]
      refine ⟨fun k after hdraw => ⟨fun hk => ?_, fun R hk hlt hR hi hx hco => ?_, fun r sg hsigning => ?_⟩, fun rest hrest => ?_⟩
      · rw [signLoop_of_out_of_range hdraw (by omega)]
        rfl
      · rw [signLoop_of_signS_error hdraw hk hlt hR ((signR_of_affine hi).trans_ne hx) he (signS_of_not_coprime hco _ _ _)]
        rfl
      · rw [signLoop_of_signingDraw hdraw he hsigning]
        rfl
      · have hsilent : draw mid = .silent { mid with answers := rest } := by rw [draw, hrest]
        rw [signLoop_of_silent hsilent]
        rfl

end Sys2Proof.Machine
end

section
/-! SUPPORT. What SIGN signed VERIFY accepts (44_ecdsa.md R143): the two sides are one multiple of the generator. -/

namespace Sys2Proof.Machine

open Sys2Proof.Claims

variable {c : Curve} {P P' Q R : Point}

/-! ## The same point, in a group -/

theorem SamePoint.trans (h : SamePoint P Q) (h' : SamePoint Q R) : SamePoint P R := by
  obtain rfl | ⟨hP, hQ⟩ := h
  · exact h'
  · exact .inr ⟨hP, h'.inf_eq ▸ hQ⟩

theorem SamePoint.symm (h : SamePoint P Q) : SamePoint Q P := h.imp Eq.symm And.symm

theorem SamePoint.eq_of_affine (h : SamePoint P Q) (hQ : Q.inf = false) : P = Q :=
  h.resolve_right fun hi => by simp [hQ] at hi

theorem SameAnswer.samePoint (h : SameAnswer (.ok P) (.ok Q)) : SamePoint P Q := by
  obtain ⟨R, hR, hsame⟩ := h.exists_ok
  cases hR
  exact hsame

section
variable {G : Type} [AddCommGroup G] {rep : G → Point} (hrep : Represents c rep) {g g' h h' : G}
include hrep

theorem Represents.samePoint_add (hg : SamePoint (rep g) (rep g')) (hh : SamePoint (rep h) (rep h')) :
    SamePoint (rep (g + h)) (rep (g' + h')) := by
  have hsum := add_same (c := c) hg hh
  rw [hrep.add, hrep.add] at hsum
  exact hsum.samePoint

theorem Represents.samePoint_nsmul (k : Nat) (hg : SamePoint (rep g) (rep g')) : SamePoint (rep (k • g)) (rep (k • g')) := by
  have hmultiple := smul_same (c := c) k hg
  rw [hrep.smul, hrep.smul] at hmultiple
  exact hmultiple.samePoint

/-- Where `n • g` is written as infinity, a scalar may be reduced modulo `n`. -/
theorem Represents.samePoint_mod {n : Nat} (hn : (rep (n • g)).inf = true) (k : Nat) :
    SamePoint (rep (k • g)) (rep ((k % n) • g)) := by
  have hzero : SamePoint (rep (n • g)) (rep 0) := .inr ⟨hn, by rw [hrep.zero]; rfl⟩
  have hsum := hrep.samePoint_add (.inl (Eq.refl (rep ((k % n) • g)))) (hrep.samePoint_nsmul (k / n) hzero)
  rwa [nsmul_zero, add_zero, ← mul_nsmul, ← add_nsmul, Nat.mod_add_div] at hsum

theorem Represents.samePoint_of_modEq {n k l : Nat} (hn : (rep (n • g)).inf = true) (h : k ≡ l [MOD n]) :
    SamePoint (rep (k • g)) (rep (l • g)) :=
  (hrep.samePoint_mod hn k).trans (h ▸ (hrep.samePoint_mod hn l).symm)

end

/-! ## The signature of a draw is valid -/

/-- `u1 + u2·d` is the draw, modulo `n` (44_ecdsa.md R143). -/
theorem scalars_of_verify_modEq {n k w v e d r sg : Nat} (hk : k * w ≡ 1 [MOD n]) (hsg : sg ≡ w * (e + d * r) [MOD n])
    (hv : sg * v ≡ 1 [MOD n]) : e * v % n + r * v % n * d ≡ k [MOD n] := by
  rw [← ZMod.natCast_eq_natCast_iff] at hk hsg hv ⊢
  push_cast [ZMod.natCast_mod] at hk hsg hv ⊢
  linear_combination (k : ZMod n) * hv - (k : ZMod n) * v * hsg - ((e + d * r) * v : ZMod n) * hk

theorem smul_order_of_construct (h : c.construct = .ok ()) : ∃ V, c.smul c.g c.n = .ok V ∧ V.inf = true := by
  unfold Curve.construct at h
  split at h
  · cases h
  split at h
  · cases h
  split at h
  · cases h
  split at h
  · cases h
  split at h
  · cases h
  next V hV =>
    split at h
    · exact ⟨V, hV, ‹_›⟩
    · cases h

/-- In a group of which the generator is the element `g`: a signature made from a draw is valid for the key's public point. -/
theorem Represents.validSignature_of_signingDraw {G : Type} [AddCommGroup G] {rep : G → Point} (hrep : Represents c rep)
    {g : G} {e d k r sg : Nat} (hgen : c.g = rep g) (horder : (rep (c.n • g)).inf = true) (hQ : onCurve c (rep (d • g)))
    (hn : c.n.Prime) (h : signingDraw c e d k r sg) : validSignature c e r sg (rep (d • g)) := by
  have hmultiple : ∀ m, c.smul c.g m = .ok (rep (m • g)) := fun m => by rw [hgen, hrep.smul]
  have hQmultiple : ∀ m, c.smul (rep (d • g)) m = .ok (rep ((m * d) • g)) := fun m => by rw [hrep.smul, mul_nsmul']
  obtain ⟨⟨hr, hrn⟩, hs, hsn⟩ := signingDraw_ranges h
  obtain ⟨-, -, R, w, hR, hRi, rfl, -, hw, rfl, -⟩ := h
  obtain rfl : rep (k • g) = R := Except.ok.inj ((hmultiple k).symm.trans hR)
  obtain ⟨v, hv⟩ := exists_mul_mod_eq_one hn.two_le (Nat.coprime_of_lt_prime (Nat.ne_of_gt hs) hsn hn).symm
  have hQorder : (rep ((c.n * d) • g)).inf = true := by
    have hzero := hrep.samePoint_of_modEq horder (Nat.modEq_zero_iff_dvd.mpr (Nat.dvd_mul_right c.n d))
    rw [hzero.inf_eq, zero_nsmul, hrep.zero]
    rfl
  have hsum : ∀ a b, c.add (rep (a • g)) (rep ((b * d) • g)) = .ok (rep ((a + b * d) • g)) := fun a b => by
    rw [hrep.add, add_nsmul]
  have hdraw := (hrep.samePoint_of_modEq horder (scalars_of_verify_modEq ((modEq_one_iff hn.two_le).mpr hw) (Nat.mod_modEq _ _)
    ((modEq_one_iff hn.two_le).mpr hv))).eq_of_affine hRi
  exact ⟨hQ, ⟨_, hQmultiple c.n, hQorder⟩, hr, hrn, hs, hsn, v, _, _, _, hv, hmultiple _, hQmultiple _, hsum _ _,
    by rw [hdraw, hRi], by rw [hdraw]⟩

/-- On a constructed curve with primes `p` and `n`: what one draw of SIGN signs is valid (44_ecdsa.md R143). -/
theorem validSignature_of_signingDraw {e d k r sg : Nat} (hp : c.p.Prime) (hn : c.n.Prime) (hconstruct : c.construct = .ok ())
    (hg : c.g.inf = false) (hQ : c.smul c.g d = .ok Q) (h : signingDraw c e d k r sg) : validSignature c e r sg Q := by
  have hgc := onCurve_of_construct hconstruct
  obtain ⟨V, hV, hVi⟩ := smul_order_of_construct hconstruct
  obtain ⟨Q', hQ', hQc⟩ := (curveAnswer_smul d hgc).exists_of_prime hp
  obtain ⟨G, _, rep, hrep, g, hsame⟩ := exists_represents hp hgc
  have hgen : c.g = rep g := (hsame.symm.eq_of_affine hg).symm
  rw [hgen, hrep.smul] at hV hQ hQ'
  cases hV
  cases hQ
  cases hQ'
  exact hrep.validSignature_of_signingDraw hgen hVi hQc hn h

/-! ## The obligation -/

/-- Settles O60: the draw that ended SIGN gives a valid signature, and SIGN leaves what VERIFY reads beside it. -/
theorem signedMessageVerifies : Obligations.SignedMessageVerifies := by
  intro s t rdR rdS rsD psQ c Q hne hc hok hconstructed _ hp hn hg _ _ hQ hpoint hsign hf hw
  subst hc hpoint
  obtain ⟨r, sg, q, hloop, rfl⟩ := exec_sign_signed hsign hf hw
  have he := digestValue_ok s.digest
  obtain ⟨-, k, hdraw⟩ := signLoop_signed he hloop
  have hvalid := validSignature_of_signingDraw hp hn (hconstructed hok) hg hQ hdraw
  obtain ⟨hr, hs⟩ := signingDraw_ranges hdraw
  obtain ⟨hR, hS⟩ := scalars_of_signature hne (BitVec.isLt s.params.cn) hr.2 hs.2 { s with port := q }
  refine exec_verify hok ?_
  rw [hR, hS]
  exact verifies_of_validSignature he hvalid

end Sys2Proof.Machine
end

section
/-! SUPPORT. Faults are precise and negative outcomes are not faults (60_exceptions.md R151, R152, R158), and `add` on the curve
(R159). -/

namespace Sys2Proof.Machine

open Sys2Proof.Claims

variable {s : State}

/-! ## Sums of points of the curve -/

theorem CurveAnswer.onCurve_of_ok {c : Curve} {r : Except FaultCause Point} {R : Point} (h : CurveAnswer c r) (hr : r = .ok R) :
    onCurve c R := by
  subst hr
  obtain ⟨R', hR', hc⟩ | ⟨hno, -⟩ := h
  · cases hR'
    exact hc
  · cases hno

/-- Settles O46: `add` of two points of the curve answers one, or finds no inverse on a modulus that is no prime. -/
theorem addStaysOnCurve : Obligations.AddStaysOnCurve := by
  intro c P Q hP hQ
  have hanswer := curveAnswer_add hP hQ
  refine ⟨fun R => hanswer.onCurve_of_ok, fun hprime _ => ?_⟩
  obtain ⟨R, hR, -⟩ := hanswer.exists_of_prime hprime
  exact ⟨R, hR⟩

/-! ## Precise faults -/

/-- Settles O21: of the ways to end only a fault sets `FAULT`, and it writes the fault record alone. -/
theorem faultsArePrecise : Obligations.FaultsArePrecise := by
  intro i s t hf h ht
  have heffect := exec_effect h
  have hport := heffect.port_eq
  cases heffect with
  | faulted c q _ => exact ⟨c, rfl, hport⟩
  | _ => cases hf.symm.trans ht

/-- Settles O22. -/
theorem faultCodes : Obligations.FaultCodes := ⟨rfl, rfl, rfl, rfl, rfl, rfl, rfl, rfl, rfl, rfl, rfl, rfl⟩

/-! ## Negative outcomes -/

/-- A negative outcome, no fault and `T` = 0, changes `T` alone (60_exceptions.md R158). -/
def NegativeWritesOnlyT (s : State) (r : Result) : Prop :=
  ∀ t, r = .next t → t.fault = false → t.t = false → t = { s with t := false }

theorem negativeWritesOnlyT_raiseFault (c : FaultCause) : NegativeWritesOnlyT s (raiseFault c s) := by
  rintro _ ⟨⟩ hf -
  cases hf

theorem negativeWritesOnlyT_positive (u : State) : NegativeWritesOnlyT s (.next (setT u true)) := by
  rintro _ ⟨⟩ - hneg
  cases hneg

theorem negativeWritesOnlyT_setT (b : Bool) : NegativeWritesOnlyT s (.next (setT s b)) := by
  rintro _ ⟨⟩ - (hneg : b = false)
  rw [setT, hneg]

theorem negativeWritesOnlyT_withCurve {k : Curve → Result} (h : ∀ c, NegativeWritesOnlyT s (k c)) :
    NegativeWritesOnlyT s (withCurve s k) := by
  unfold withCurve
  split
  · exact h _
  · exact negativeWritesOnlyT_raiseFault .noCurve

theorem negativeWritesOnlyT_execSqrt (rd rs1 : SReg) (m : ModSel) : NegativeWritesOnlyT s (execSqrt rd rs1 m s) := by
  unfold execSqrt
  split
  · exact negativeWritesOnlyT_raiseFault .modulus
  · split
    next c _ => exact negativeWritesOnlyT_raiseFault c
    next => exact negativeWritesOnlyT_positive _
    next => exact negativeWritesOnlyT_setT false

theorem negativeWritesOnlyT_execPrec (pd : PReg) (rs1 : SReg) : NegativeWritesOnlyT s (execPrec pd rs1 s) := by
  refine negativeWritesOnlyT_withCurve fun c => ?_
  split
  · exact negativeWritesOnlyT_raiseFault .range
  · split
    next e _ => exact negativeWritesOnlyT_raiseFault e
    next => exact negativeWritesOnlyT_positive _
    next => exact negativeWritesOnlyT_setT false

theorem negativeWritesOnlyT_execVerify (rsR rsS : SReg) (psQ : PReg) : NegativeWritesOnlyT s (execVerify rsR rsS psQ s) := by
  refine negativeWritesOnlyT_withCurve fun c => ?_
  split
  next e _ => exact negativeWritesOnlyT_raiseFault e
  next b _ => exact negativeWritesOnlyT_setT b

/-- Settles O27: each of the four commands that write `T` writes a register only together with `T` = 1. -/
theorem negativeOutcomesWriteOnlyT : Obligations.NegativeOutcomesWriteOnlyT := by
  intro i s t hi _ h
  refine (?_ : NegativeWritesOnlyT s (exec i s)) t h
  cases i with
  | sqrt rd rs1 m => exact negativeWritesOnlyT_execSqrt rd rs1 m
  | pchk ps1 => exact negativeWritesOnlyT_withCurve fun c => negativeWritesOnlyT_setT _
  | prec pd rs1 => exact negativeWritesOnlyT_execPrec pd rs1
  | verify rsR rsS psQ => exact negativeWritesOnlyT_execVerify rsR rsS psQ
  | _ => cases hi

end Sys2Proof.Machine
end

section
/-! SUPPORT. The faults of each command (60_exceptions.md R159): what the operations of the meanings may raise, then the commands. -/

namespace Sys2Proof.Machine

open Sys2Proof.Claims

/-! ## Computations that raise only listed faults -/

/-- A computation that fails does so with a cause of the list. -/
def RaisesOnly {α : Type} (l : List FaultCause) (r : Except FaultCause α) : Prop := ∀ e, r = .error e → e ∈ l

section
variable {α β : Type} {l l' : List FaultCause} {r : Except FaultCause α}

theorem raisesOnly_ok (a : α) : RaisesOnly l (.ok a) := nofun

theorem raisesOnly_error {e : FaultCause} (h : e ∈ l) : RaisesOnly l (.error e : Except FaultCause α) := by
  rintro _ ⟨⟩
  exact h

theorem RaisesOnly.mono (h : RaisesOnly l r) (hl : l ⊆ l') : RaisesOnly l' r := fun e he => hl (h e he)

theorem RaisesOnly.bind {f : α → Except FaultCause β} (hr : RaisesOnly l r) (hf : ∀ a, RaisesOnly l (f a)) :
    RaisesOnly l (r >>= f) := by
  cases r with
  | ok a => exact hf a
  | error e => exact raisesOnly_error (hr e rfl)

end

/-! ## The operations on integers -/

theorem raisesOnly_invmod (v : Int) (m : Nat) : RaisesOnly [.notInvertible] (invmod v m) := by
  obtain ⟨-, u, hu⟩ | ⟨-, herr⟩ := invmod_cases v m
  · rw [hu]
    exact raisesOnly_ok u
  · rw [herr]
    exact raisesOnly_error (by simp)

/-- The radix has an inverse modulo every modulus that MONTMUL takes (40_field_arithmetic.md R75). -/
theorem raisesOnly_montgomeryProduct {m : Nat} (a b : Nat) (h : belowTwoOrEven m = false) :
    RaisesOnly [] (montgomeryProduct a b m) := by
  simp only [belowTwoOrEven, Bool.or_eq_false_iff, decide_eq_false_iff_not] at h
  obtain ⟨u, -, -, -, hu⟩ := montgomeryProduct_eq (m := m) (by omega) (by omega)
  rw [hu]
  exact raisesOnly_ok _

theorem raisesOnly_nonResidueLoop (fuel z p : Nat) : RaisesOnly [.sqrtInternal] (nonResidueLoop fuel z p) := by
  induction fuel generalizing z with
  | zero => exact raisesOnly_error (by simp)
  | succ fuel ih =>
    unfold nonResidueLoop
    split
    · exact raisesOnly_ok z
    split
    · exact raisesOnly_error (by simp)
    · exact ih _

/-- Only the search of step 4 can fail (41_sqrt.md R91). -/
theorem raisesOnly_sqrtMod (x p : Nat) : RaisesOnly [.sqrtInternal] (sqrtMod x p) := by
  unfold sqrtMod
  split
  · exact raisesOnly_ok none
  dsimp only
  split
  · exact raisesOnly_ok _
  split
  next e he => exact raisesOnly_error (raisesOnly_nonResidueLoop _ _ _ e he)
  next => exact raisesOnly_ok _

/-! ## The operations on points -/

section
variable {c : Curve} {P Q : Point}

theorem CurveAnswer.raisesOnly {r : Except FaultCause Point} (h : CurveAnswer c r) : RaisesOnly [.notInvertible] r := by
  obtain ⟨R, rfl, -⟩ | ⟨rfl, -⟩ := h
  · exact raisesOnly_ok R
  · exact raisesOnly_error (by simp)

theorem raisesOnly_add (P Q : Point) : RaisesOnly [.range, .notOnCurve, .notInvertible] (c.add P Q) := by
  by_cases hr : c.canonical P = true ∧ c.canonical Q = true
  case neg =>
    rw [add_range hr]
    exact raisesOnly_error (by simp)
  by_cases hs : c.contains P = true ∧ c.contains Q = true
  case neg =>
    rw [add_notOnCurve hr hs]
    exact raisesOnly_error (by simp)
  have hP : onCurve c P := ⟨canonical_iff.mp hr.1, contains_iff.mp hs.1⟩
  have hQ : onCurve c Q := ⟨canonical_iff.mp hr.2, contains_iff.mp hs.2⟩
  exact (curveAnswer_add hP hQ).raisesOnly.mono (by simp)

theorem raisesOnly_smulLoop (fuel : Nat) (result base : Point) (rem : Nat) :
    RaisesOnly [.range, .notOnCurve, .notInvertible] (c.smulLoop fuel result base rem) := by
  induction fuel generalizing result base rem with
  | zero => exact raisesOnly_ok result
  | succ fuel ih =>
    by_cases hrem : rem = 0
    · rw [hrem, smulLoop_rem_zero]
      exact raisesOnly_ok result
    have hacc : RaisesOnly [.range, .notOnCurve, .notInvertible] (if rem % 2 = 1 then c.add result base else .ok result) := by
      split
      · exact raisesOnly_add _ _
      · exact raisesOnly_ok _
    rw [smulLoop_succ _ _ _ hrem]
    exact hacc.bind fun _ => (raisesOnly_add _ _).bind fun _ => ih _ _ _

theorem raisesOnly_recover (x : Nat) : RaisesOnly [.sqrtInternal] (c.recover x) := by
  unfold Curve.recover
  split
  next e he => exact raisesOnly_error (raisesOnly_sqrtMod _ _ e he)
  next => exact raisesOnly_ok _
  next => exact raisesOnly_ok _

theorem raisesOnly_construct (c : Curve) : RaisesOnly [.modulus, .range, .curveInit, .notInvertible] c.construct := by
  unfold Curve.construct
  split
  · exact raisesOnly_error (by simp)
  split
  · exact raisesOnly_error (by simp)
  split
  · exact raisesOnly_error (by simp)
  next hr =>
  split
  · exact raisesOnly_error (by simp)
  next hs =>
  have hg : onCurve c c.g := ⟨canonical_iff.mp (not_not.mp hr), contains_iff.mp (not_not.mp hs)⟩
  split
  next e he => exact raisesOnly_error (((curveAnswer_smul c.n hg).raisesOnly.mono (by simp)) e he)
  next =>
    split
    · exact raisesOnly_ok _
    · exact raisesOnly_error (by simp)

/-! ## The operations of the signature -/

variable {dg : DigestState}

theorem raisesOnly_signS (k e d r : Nat) : RaisesOnly [.notInvertible] (c.signS k e d r) := by
  unfold Curve.signS
  split
  next x hx => exact raisesOnly_error (raisesOnly_invmod _ _ x hx)
  next => exact raisesOnly_ok _

section
variable (hg : onCurve c c.g)
include hg

/-- The signing loop faults for a draw, for want of an inverse, or when no try is left (44_ecdsa.md R141). -/
theorem signLoop_faulted_mem {d tries : Nat} {p q : RandomPort} {x : FaultCause} (h : c.signLoop dg d tries p = .faulted x q) :
    x ∈ [FaultCause.signRetry, .rngRange, .notInvertible] := by
  induction tries generalizing p with
  | zero =>
    cases h
    simp
  | succ tries ih =>
    obtain ⟨k, mid, hdraw, -⟩ | ⟨mid, hdraw, -⟩ := draw_cases p
    case inr => cases (signLoop_of_silent hdraw).symm.trans h
    by_cases hrange : k < 1 ∨ c.n ≤ k
    case pos =>
      cases (signLoop_of_out_of_range hdraw hrange).symm.trans h
      simp
    have hk : 1 ≤ k := by omega
    have hlt : k < c.n := by omega
    cases hR : c.smul c.g k with
    | error e =>
      cases (signLoop_of_smul_error hdraw hk hlt hR).symm.trans h
      exact ((curveAnswer_smul k hg).raisesOnly.mono (by simp)) x hR
    | ok R =>
      by_cases hr : c.signR R = 0
      case pos => exact ih ((signLoop_of_r_zero hdraw hk hlt hR hr).symm.trans h)
      have he := digestValue_ok dg
      cases hs : c.signS k _ d (c.signR R) with
      | error e =>
        cases (signLoop_of_signS_error hdraw hk hlt hR hr he hs).symm.trans h
        exact ((raisesOnly_signS _ _ _ _).mono (by simp)) x hs
      | ok sg =>
        have hpass := (signLoop_of_signS_ok hdraw hk hlt hR hr he hs).symm.trans h
        split at hpass
        · exact ih hpass
        · cases hpass

theorem raisesOnly_verifyPoint (r u1 u2 : Nat) (hQ : onCurve c Q) : RaisesOnly [.notInvertible] (c.verifyPoint r u1 u2 Q) := by
  unfold Curve.verifyPoint
  split
  next e he => exact raisesOnly_error ((curveAnswer_smul u1 hg).raisesOnly e he)
  next A hA =>
  split
  next e he => exact raisesOnly_error ((curveAnswer_smul u2 hQ).raisesOnly e he)
  next B hB =>
  have hAc := (curveAnswer_smul u1 hg).onCurve_of_ok hA
  have hBc := (curveAnswer_smul u2 hQ).onCurve_of_ok hB
  split
  next e he => exact raisesOnly_error ((curveAnswer_add hAc hBc).raisesOnly e he)
  next => exact raisesOnly_ok _

theorem raisesOnly_verifyEquations (e r sg : Nat) (hQ : onCurve c Q) :
    RaisesOnly [.notInvertible] (c.verifyEquations e r sg Q) := by
  unfold Curve.verifyEquations
  split
  · exact raisesOnly_ok false
  split
  next x hx => exact raisesOnly_error (raisesOnly_invmod _ _ x hx)
  next => exact raisesOnly_verifyPoint hg _ _ _ hQ

/-- VERIFY computes with the key only after it has found it on the curve (44_ecdsa.md R142). -/
theorem raisesOnly_verifies (r sg : Nat) (Q : Point) : RaisesOnly [.notInvertible] (c.verifies dg r sg Q) := by
  by_cases hQ : onCurve c Q
  case neg =>
    rw [verifies_of_not_onCurve hQ]
    exact raisesOnly_ok false
  cases hV : c.smul Q c.n with
  | error e =>
    rw [Curve.verifies, if_neg (not_not.mpr (canonical_iff.mpr hQ.1)), if_neg (not_not.mpr (contains_iff.mpr hQ.2)), hV]
    exact raisesOnly_error ((curveAnswer_smul c.n hQ).raisesOnly e hV)
  | ok V =>
    rw [verifies_of_onCurve hQ hV (digestValue_ok dg)]
    split
    · exact raisesOnly_verifyEquations hg _ _ _ hQ
    · exact raisesOnly_ok false

end

end

/-! ## Commands that raise only listed faults -/

/-- A command that ends in the FAULT state does so with a cause of the list. -/
def FaultsOnly (l : List FaultCause) (r : Result) : Prop :=
  ∀ t, r = .next t → t.fault = true → ∃ c ∈ l, t.fcause = faultCode c

section
variable {l : List FaultCause} {s : State}

theorem faultsOnly_raiseFault {c : FaultCause} (h : c ∈ l) : FaultsOnly l (raiseFault c s) := by
  rintro _ ⟨⟩ -
  exact ⟨c, h, rfl⟩

theorem faultsOnly_next (hf : s.fault = false) : FaultsOnly l (.next s) := by
  rintro _ ⟨⟩ ht
  cases hf.symm.trans ht

theorem faultsOnly_withCurve {k : Curve → Result} (hno : .noCurve ∈ l) (hk : s.curveOk = true → FaultsOnly l (k (curveOf s.params))) :
    FaultsOnly l (withCurve s k) := by
  cases hok : s.curveOk with
  | true =>
    rw [withCurve_on hok]
    exact hk hok
  | false =>
    rw [withCurve_off hok]
    exact faultsOnly_raiseFault hno

variable (hf : s.fault = false)
include hf

theorem faultsOnly_fieldCommand {rd : SReg} {m : ModSel} {bad : Nat → Bool} {f : Nat → Except FaultCause Nat}
    (hr : ∀ p, bad p = false → RaisesOnly l (f p)) : FaultsOnly (.modulus :: l) (fieldCommand s rd m bad f) := by
  cases hbad : bad (selectedModulus s m) with
  | true =>
    rw [fieldCommand_bad hbad]
    exact faultsOnly_raiseFault (by simp)
  | false =>
    cases hv : f (selectedModulus s m) with
    | ok v =>
      rw [fieldCommand_ok hbad hv]
      exact faultsOnly_next hf
    | error e =>
      rw [fieldCommand_error hbad hv]
      exact faultsOnly_raiseFault (List.mem_cons_of_mem _ (hr _ hbad e hv))

/-- PADD, PDBL and SMUL: the check of `CURVE_OK`, then a computation whose point is written. -/
theorem faultsOnly_pointCommand {pd : PReg} {f : Curve → Except FaultCause Point} (hr : ∀ c, RaisesOnly l (f c)) :
    FaultsOnly (.noCurve :: l) (withCurve s fun c => finishPoint s pd (f c)) := by
  refine faultsOnly_withCurve (by simp) fun _ => ?_
  obtain ⟨v, -, h⟩ | ⟨e, he, h⟩ := finishPoint_cases s pd (f (curveOf s.params))
  · rw [h]
    exact faultsOnly_next hf
  · rw [h]
    exact faultsOnly_raiseFault (List.mem_cons_of_mem _ (hr _ e he))

/-! ## The commands with checks of their own -/

theorem faultsOnly_execSqrt (rd rs1 : SReg) (m : ModSel) : FaultsOnly [.modulus, .sqrtInternal] (execSqrt rd rs1 m s) := by
  unfold execSqrt
  split
  · exact faultsOnly_raiseFault (by simp)
  split
  next e he => exact faultsOnly_raiseFault (((raisesOnly_sqrtMod _ _).mono (by simp)) e he)
  next => exact faultsOnly_next hf
  next => exact faultsOnly_next hf

theorem faultsOnly_execCinit : FaultsOnly [.modulus, .range, .curveInit, .notInvertible] (execCinit s) := by
  unfold execCinit
  split
  next e he => exact faultsOnly_raiseFault (raisesOnly_construct _ e he)
  next => exact faultsOnly_next hf

theorem faultsOnly_execPchk (ps1 : PReg) : FaultsOnly [.noCurve] (execPchk ps1 s) :=
  faultsOnly_withCurve (by simp) fun _ => faultsOnly_next hf

theorem faultsOnly_execPrec (pd : PReg) (rs1 : SReg) : FaultsOnly [.noCurve, .range, .sqrtInternal] (execPrec pd rs1 s) := by
  refine faultsOnly_withCurve (by simp) fun _ => ?_
  split
  · exact faultsOnly_raiseFault (by simp)
  split
  next e he => exact faultsOnly_raiseFault (((raisesOnly_recover _).mono (by simp)) e he)
  next => exact faultsOnly_next hf
  next => exact faultsOnly_next hf

theorem faultsOnly_execHappend (len : BitVec 12) : FaultsOnly [.hashLen] (execHappend len s) := by
  unfold execHappend
  split
  · exact faultsOnly_raiseFault (by simp)
  · exact faultsOnly_next hf

theorem faultsOnly_execHdigest (rd : SReg) : FaultsOnly [] (execHdigest rd s) := by
  rw [execHdigest, digestValue_ok]
  exact faultsOnly_next hf

/-! ## The commands that compute with the generator -/

variable (hg : s.curveOk = true → onCurve (curveOf s.params) (curveOf s.params).g)
include hg

theorem faultsOnly_execKeygen (rd : SReg) (pd : PReg) : FaultsOnly [.noCurve, .rngRange, .notInvertible] (execKeygen rd pd s) := by
  refine faultsOnly_withCurve (by simp) fun hok => ?_
  split
  · exact faultsOnly_next hf
  next d after _ =>
  dsimp only
  split
  · exact faultsOnly_raiseFault (by simp)
  split
  next e he => exact faultsOnly_raiseFault (((curveAnswer_smul d (hg hok)).raisesOnly.mono (by simp)) e he)
  next => exact faultsOnly_next hf

theorem faultsOnly_execSign (rdR rdS rsD : SReg) :
    FaultsOnly [.noCurve, .range, .signRetry, .rngRange, .notInvertible] (execSign rdR rdS rsD s) := by
  refine faultsOnly_withCurve (by simp) fun hok => ?_
  split
  · exact faultsOnly_raiseFault (by simp)
  obtain ⟨r, sg, q, -, h⟩ | ⟨x, q, hloop, h⟩ | ⟨q, -, h⟩ := finishSign_cases s rdR rdS _
  · rw [h]
    exact faultsOnly_next hf
  · rw [h]
    exact faultsOnly_raiseFault (List.mem_cons_of_mem _ (List.mem_cons_of_mem _ (signLoop_faulted_mem (hg hok) hloop)))
  · rw [h]
    exact faultsOnly_next hf

theorem faultsOnly_execVerify (rsR rsS : SReg) (psQ : PReg) : FaultsOnly [.noCurve, .notInvertible] (execVerify rsR rsS psQ s) := by
  refine faultsOnly_withCurve (by simp) fun hok => ?_
  split
  next e he => exact faultsOnly_raiseFault (((raisesOnly_verifies (hg hok) _ _ _).mono (by simp)) e he)
  next => exact faultsOnly_next hf

end

/-! ## The obligation -/

/-- Settles O23: each meaning passes on the faults of its operations, and on a constructed curve the generator is a point of the
curve, so that of its multiples only an inverse can be missing. -/
theorem faultsPerCommand : Obligations.FaultsPerCommand := by
  intro i s t hconstructed hf h
  have hg : s.curveOk = true → onCurve (curveOf s.params) (curveOf s.params).g :=
    fun hok => onCurve_of_construct (hconstructed hok)
  refine (?_ : FaultsOnly (mayRaise i) (exec i s)) t h
  cases i with
  | modadd | modsub | modmul | modexp => exact faultsOnly_fieldCommand hf fun _ _ => raisesOnly_ok _
  | montmul => exact faultsOnly_fieldCommand hf fun _ hbad => raisesOnly_montgomeryProduct _ _ hbad
  | modinv => exact faultsOnly_fieldCommand hf fun _ _ => raisesOnly_invmod _ _
  | sqrt rd rs1 m => exact faultsOnly_execSqrt hf rd rs1 m
  | cinit => exact faultsOnly_execCinit hf
  | pchk ps1 => exact faultsOnly_execPchk hf ps1
  | prec pd rs1 => exact faultsOnly_execPrec hf pd rs1
  | padd | pdbl => exact faultsOnly_pointCommand hf fun _ => raisesOnly_add _ _
  | smul => exact faultsOnly_pointCommand hf fun _ => raisesOnly_smulLoop _ _ _ _
  | keygen rd pd => exact faultsOnly_execKeygen hf hg rd pd
  | hreset => exact faultsOnly_next hf
  | happend len => exact faultsOnly_execHappend hf len
  | hdigest rd => exact faultsOnly_execHdigest hf rd
  | sign rdR rdS rsD => exact faultsOnly_execSign hf hg rdR rdS rsD
  | verify rsR rsS psQ => exact faultsOnly_execVerify hf hg rsR rsS psQ

end Sys2Proof.Machine
end

section
/-! SUPPORT. Resets (70_reset_and_hazards.md R180 to R182): where the first reset to come stands, and the steps that reset the block. -/

namespace Sys2Proof.Machine

open Sys2Proof.Claims

variable {s : State} {rest before : List HostEvent} {v : Word}

/-! ## The first reset to come -/

theorem takeReset_cons_of_ne {e : HostEvent} (es : List HostEvent) (he : e ≠ .hardReset) :
    takeReset (e :: es) = (takeReset es).map (e :: ·) := by
  cases e with
  | hardReset => exact absurd rfl he
  | _ => rfl

theorem takeReset_append_hardReset (h : .hardReset ∉ before) :
    takeReset (before ++ .hardReset :: rest) = some (before ++ rest) := by
  induction before with
  | nil => rfl
  | cons e es ih =>
    obtain ⟨he, hes⟩ := List.ne_and_not_mem_of_not_mem_cons h
    rw [List.cons_append, takeReset_cons_of_ne _ (Ne.symm he), ih hes]
    rfl

/-! ## Steps that reset, and the write to `CTRL` that does not -/

/-- The reset input acts at once, whether a command waits or not. -/
theorem step_hardReset (hp : s.pending = .hardReset :: rest) : step s = .next (resetBlock { s with pending := rest }) := by
  cases hw : s.waiting with
  | false => exact step_event hw hp
  | true => exact step_waiting_reset hw (congrArg takeReset hp)

theorem step_ctrl (hw : s.waiting = false) (hp : s.pending = .write 0x010 v :: rest) :
    step s = .next (reply .done (writeCtrl v { s with pending := rest })) :=
  (step_event hw hp).trans (busWrite_ctrl _ v)

theorem writeCtrl_of_bit_set (hv : v.getLsbD 0 = true) : writeCtrl v s = resetBlock s := if_pos hv

theorem writeCtrl_of_bit_clear (hv : v.getLsbD 0 = false) : writeCtrl v s = s := if_neg (ne_true_of_eq_false hv)

/-! ## The obligation -/

/-- Settles O16: each of the three resets ends in `resetBlock`, which gives the reset values and leaves the rest alone. -/
theorem resetFromAnyState : Obligations.ResetFromAnyState := by
  intro s rest
  refine ⟨fun hp => ?_, fun v hp hw hv => ?_, fun v hp hw hv => ?_, fun before hw hfirst hp => ?_⟩
  · exact ⟨_, step_hardReset hp, resetFrom_resetBlock s rest _, rfl, rfl, rfl⟩
  · refine ⟨_, step_ctrl hw hp, ?_⟩
    rw [writeCtrl_of_bit_set hv]
    exact ⟨resetFrom_resetBlock s rest _, rfl, rfl, rfl⟩
  · rw [step_ctrl hw hp, writeCtrl_of_bit_clear hv]
    rfl
  · have hreset : takeReset s.pending = some (before ++ rest) := hp ▸ takeReset_append_hardReset hfirst
    exact ⟨_, step_waiting_reset hw hreset, resetFrom_resetBlock s _ _, rfl, rfl, rfl⟩

end Sys2Proof.Machine
end
